-- ==== Sys2Proof/Word.lean ====
section
/-! DEFINITION. Word types of the block: the bus word, the byte address, the byte lane (20_memory.md R60 to R63). -/

namespace Sys2Proof

/-- A 32-bit bus word, the only access width (20_memory.md R63). Bit 0 is the least significant bit (00_scope.md R10). -/
abbrev Word := BitVec 32

/-- A 16-bit byte address of the block's one address space (20_memory.md R60, R61). -/
abbrev Addr := BitVec 16

/-- One byte lane of a word (20_memory.md R62). -/
abbrev Byte := BitVec 8

/-- A phase code phi, 2 bits, standing for the unit value i^phi (00_scope.md R17, R18). -/
abbrev PhaseCode := BitVec 2

end Sys2Proof
end

