-- ==== Sys2Proof/Config.lean ====
section
/-! DEFINITION. What an implementation fixes: the ROMs' types and contents, the latencies, the placement
(00_scope.md R7 to R9, 10_state.md R40 to R43). The contents the source does not give are free values: constants
with no body, of which Lean can prove nothing. -/

namespace Sys2Proof

/-- The four transmission modes (00_scope.md R7). -/
inductive Mode where
  | I
  | II
  | III
  | IV
  deriving DecidableEq, Repr, Inhabited

/-- The mode number m of 1..4 (00_scope.md R7, 30_encoding.md R93). -/
def Mode.number : Mode → Nat
  | .I => 1
  | .II => 2
  | .III => 3
  | .IV => 4

/-- One record of the MODE_CONST ROM, each field an unsigned integer below 2^20 (10_state.md R40, 00_scope.md R9). -/
structure ModeConst where
  symbolsPerFrame : BitVec 20
  numCarriers : BitVec 20
  frameLength : BitVec 20
  nsLength : BitVec 20
  symbolLength : BitVec 20
  fftLength : BitVec 20
  cpLength : BitVec 20
  deriving DecidableEq, Repr, Inhabited

/-- One row of PRN_ROWS: k_min, k_max and the anchor k' signed 12-bit, i and n unsigned 2-bit (10_state.md R41,
00_scope.md R9). -/
structure PrnRow where
  kMin : BitVec 12
  kMax : BitVec 12
  kAnchor : BitVec 12
  i : BitVec 2
  n : BitVec 2
  deriving DecidableEq, Repr, Inhabited

/-- What the ROMs hold for one mode m: MODE_CONST[m], PRN_ROWS[m], GOLDEN[m] (10_state.md R40, R41, R43). -/
structure ModeRom where
  consts : ModeConst
  prnRows : List PrnRow
  golden : List Int
  deriving DecidableEq, Repr, Inhabited

/-- PHASE_H: 4 rows of 32 two-bit codes (10_state.md R42). -/
abbrev PhaseTable := Vector (Vector (BitVec 2) 32) 4

/-- The block's ROMs, the parameters of 00_scope.md R9. -/
structure Rom where
  modeI : ModeRom
  modeII : ModeRom
  modeIII : ModeRom
  modeIV : ModeRom
  phaseH : PhaseTable
  deriving DecidableEq, Repr, Inhabited

/-- The ROM contents of mode m. -/
def Rom.mode (r : Rom) : Mode → ModeRom
  | .I => r.modeI
  | .II => r.modeII
  | .III => r.modeIII
  | .IV => r.modeIV

/-- Window depth W: the number of entries of each output RAM (00_scope.md R9, 10_state.md R35 to R38). -/
def Config.windowDepth : Nat := 2048

/-- GOLDEN[1], given by the source (00_scope.md R9, 42_frequency_interleaver.md R182). -/
def Config.goldenModeI : List Int := [-513, -14, 329, 692, -733, 13, 680, 273, -36, 43]

/-- The default contents of GOLDEN[m]: the source's for mode 1, and for modes 2 to 4 the spec's defaults
(42_frequency_interleaver.md R182, R185). They stay a parameter: State.rom may hold any GOLDEN of at most 10 values, none
among them, which drops the check (log entry 1). -/
def Config.defaultGolden : Mode → List Int
  | .I => Config.goldenModeI
  | .II => [-129, -14, -55, -76, 163, 141, -88, 7, -111, -85]
  | .III => [-65, -14, 52, -29, -58, 77, 40, 71, -38, 81]
  | .IV => [-257, -14, 73, 180, 198, -243, 168, 218, 17, 299]

/-- Free value: the ROM contents an implementation is built with (00_scope.md R6, R9; log entry 1). -/
opaque Config.freeRom : Rom

/-- The build-time ROM contents: free but for what the source fixes, K_1 = 1536, N_1 = 2048 and GOLDEN[1], and the
spec's defaults of GOLDEN[2..4] (00_scope.md R8, R9; 42_frequency_interleaver.md R185; log entry 1). -/
def Config.rom : Rom :=
  { Config.freeRom with
    modeI :=
      { Config.freeRom.modeI with
        consts := { Config.freeRom.modeI.consts with numCarriers := 1536#20, fftLength := 2048#20 }
        golden := Config.defaultGolden .I }
    modeII := { Config.freeRom.modeII with golden := Config.defaultGolden .II }
    modeIII := { Config.freeRom.modeIII with golden := Config.defaultGolden .III }
    modeIV := { Config.freeRom.modeIV with golden := Config.defaultGolden .IV } }

/-- Free value: LAT_SELFTEST - 1 of the n-th latency draw, any natural number (70_reset_and_hazards.md R252; log
entry 3). -/
opaque Config.latSelftest : Nat → Nat

/-- Free value: LAT_DERIVE - 1 of the n-th latency draw, any natural number (70_reset_and_hazards.md R252; log
entry 3). -/
opaque Config.latDerive : Nat → Nat

/-- Free value: BLOCK_BASE, where the platform places the block (20_memory.md R61). -/
opaque Config.blockBase : Nat

end Sys2Proof
end

