-- ==== Sys2Proof/Syntax.lean ====
section
/-! DEFINITION. Syntax: the four commands (one constructor per row of opcode_table.json), the assembler's spellings
(30_encoding.md R98), the host's transactions (20_memory.md R60), its script lines (30_encoding.md R99). -/

namespace Sys2Proof

/-- The commands of 30_encoding.md R95. -/
inductive Instr where
  /-- NOP (40_commands.md R112). -/
  | nop
  /-- DERIVE m; the operand is the whole 3-bit MODE field, 0..7, valid or not (40_commands.md R117, 30_encoding.md R93, R97). -/
  | derive (mode : BitVec 3)
  /-- SELFTEST (40_commands.md R113). -/
  | selftest
  /-- CLEAR_FAULT (40_commands.md R122). -/
  | clearFault
  deriving DecidableEq, Repr

/-- The assembler's command spellings (30_encoding.md R98): DERIVE takes a decimal number, or one of the aliases I to IV. -/
inductive AsmCommand where
  | nop
  | derive (operand : Nat)
  | deriveAlias (m : Mode)
  | selftest
  | clearFault
  deriving DecidableEq, Repr

/-- A host transaction, always 32 bits wide (20_memory.md R60, R63). -/
inductive Txn where
  /-- MemRead(addr, 4). -/
  | read (addr : Addr)
  /-- MemWrite(addr, 4, data). -/
  | write (addr : Addr) (data : Word)
  deriving DecidableEq, Repr

/-- The lines of a host script that reach the block (30_encoding.md R99). An expect line is an assertion of the script
and issues no transaction. -/
inductive HostLine where
  | wr (off : Addr) (val : Word)
  | rd (off : Addr)
  | issue (c : AsmCommand)
  | poll (off : Addr) (mask val : Word)
  | waitIdle
  | expect (read val : Word)
  deriving DecidableEq, Repr

end Sys2Proof
end

