-- ==== Sys2Proof/WellFormed.lean ====
section
/-! DEFINITION. Well-formedness: the assembler's operand check (30_encoding.md R98) and the ROM premises
(10_state.md R48). A command of Instr needs no check of its own: its one operand has the width of the MODE field. -/

namespace Sys2Proof

/-- The assembler rejects an operand of DERIVE outside 0..7 (30_encoding.md R98). -/
def AsmCommand.wellFormed : AsmCommand → Bool
  | .derive operand => decide (operand ≤ 7)
  | .nop | .deriveAlias _ | .selftest | .clearFault => true

/-- Every MODE_CONST[m] field is positive; below 2^20 it is by its width (10_state.md R48). -/
def ModeConst.positive (c : ModeConst) : Bool :=
  decide (0 < c.symbolsPerFrame.toNat ∧ 0 < c.numCarriers.toNat ∧ 0 < c.frameLength.toNat ∧ 0 < c.nsLength.toNat ∧
    0 < c.symbolLength.toNat ∧ 0 < c.fftLength.toNat ∧ 0 < c.cpLength.toNat)

/-- The premises of 10_state.md R48 on one mode. The ranges of k_min, k_max, k', i, n and PHASE_H hold by their
widths. -/
def ModeRom.admitted (r : ModeRom) : Bool :=
  r.consts.positive &&
  decide (r.consts.fftLength.toNat % 8 = 0 ∧ r.consts.fftLength.toNat ≤ 2048) &&
  decide (r.consts.numCarriers.toNat % 64 = 0 ∧ r.consts.numCarriers.toNat ≤ Config.windowDepth) &&
  decide (r.prnRows.length = r.consts.numCarriers.toNat / 32) &&
  decide (r.golden.length ≤ 10)

/-- A ROM parameter set is admitted only if every mode meets the premises and G_1 = 10 (10_state.md R48). -/
def Rom.admitted (r : Rom) : Bool :=
  r.modeI.admitted && r.modeII.admitted && r.modeIII.admitted && r.modeIV.admitted &&
  decide (r.modeI.golden.length = 10)

/-- What the source fixes of the contents: K_1 = 1536, N_1 = 2048, GOLDEN[1] (00_scope.md R8, R9). It is no premise of
10_state.md R48. -/
def Rom.agreesWithSource (r : Rom) : Bool :=
  decide (r.modeI.consts.numCarriers = 1536#20 ∧ r.modeI.consts.fftLength = 2048#20 ∧
    r.modeI.golden = Config.goldenModeI)

end Sys2Proof
end

