-- ==== Sys2Proof/Decode.lean ====
section
/-! DEFINITION. Command encoding (30_encoding.md): byte lanes, field extraction, the total decoder, the encoder, the
assembler. -/

namespace Sys2Proof

/-- Byte lane i of a word, lane 0 holding bits 7:0 (20_memory.md R62). -/
def laneOf (w : Word) (i : Nat) : Byte := w.extractLsb' (8 * i) 8

/-- The four byte lanes of a word at ascending byte addresses: little-endian (20_memory.md R62). -/
def lanesOfWord (w : Word) : List Byte := [laneOf w 0, laneOf w 1, laneOf w 2, laneOf w 3]

/-- The word of four byte lanes, the first at the lowest address (20_memory.md R62). -/
def wordOfLanes (b0 b1 b2 b3 : Byte) : Word := b3 ++ b2 ++ b1 ++ b0

/-- OP = w[31:24] (30_encoding.md R90, R92). -/
def opField (w : Word) : BitVec 8 := w.extractLsb' 24 8

/-- RSV = w[23:3] (30_encoding.md R90, R94). -/
def rsvField (w : Word) : BitVec 21 := w.extractLsb' 3 21

/-- MODE = w[2:0] (30_encoding.md R90, R93). -/
def modeField (w : Word) : BitVec 3 := w.extractLsb' 0 3

/-- Why a word is illegal: the three classes of 30_encoding.md R96. -/
inductive IllegalWord where
  /-- OP in 0x04 to 0xFF. -/
  | unknownOpcode
  /-- OP in 0x00 to 0x03 with RSV not zero. -/
  | reservedNonzero
  /-- OP in 0x00, 0x02, 0x03 with MODE not zero. -/
  | modeNonzero
  deriving DecidableEq, Repr

/-- What a command word decodes to (30_encoding.md R95). -/
inductive Decoded where
  | command (i : Instr)
  | illegal (why : IllegalWord)
  deriving DecidableEq, Repr

/-- The class of an illegal word, an unknown opcode before the reserved bits before the mode field (30_encoding.md R96). -/
def whyIllegal (w : Word) : IllegalWord :=
  if 4 ≤ (opField w).toNat then .unknownOpcode
  else if rsvField w ≠ 0#21 then .reservedNonzero
  else .modeNonzero

/-- The decoder, total on 32-bit words (30_encoding.md R95). -/
def decode (w : Word) : Decoded :=
  if w = 0x00000000#32 then .command .nop
  else if w &&& 0xFFFFFFF8#32 = 0x01000000#32 then .command (.derive (modeField w))
  else if w = 0x02000000#32 then .command .selftest
  else if w = 0x03000000#32 then .command .clearFault
  else .illegal (whyIllegal w)

/-- The decoder over byte lanes: one command is exactly four lanes (30_encoding.md R91, 20_memory.md R62); none when
fewer than four are left. -/
def decodeBytes : List Byte → Option (Decoded × List Byte)
  | b0 :: b1 :: b2 :: b3 :: rest => some (decode (wordOfLanes b0 b1 b2 b3), rest)
  | _ => none

/-- The one format CMDW: OP in 31:24, RSV = 0 in 23:3, MODE in 2:0 (30_encoding.md R90). -/
def cmdw (op : BitVec 8) (mode : BitVec 3) : Word := op ++ 0#21 ++ mode

/-- The opcode of each command (30_encoding.md R95's table). -/
def opcodeOf : Instr → BitVec 8
  | .nop => 0x00#8
  | .derive _ => 0x01#8
  | .selftest => 0x02#8
  | .clearFault => 0x03#8

/-- The MODE field of each command: the operand of DERIVE, 000 for the others (30_encoding.md R95's table). -/
def modeOperandOf : Instr → BitVec 3
  | .derive m => m
  | .nop | .selftest | .clearFault => 0#3

/-- The encoding function enc (30_encoding.md R100). -/
def encode (i : Instr) : Word := cmdw (opcodeOf i) (modeOperandOf i)

/-- The assembler: none where it rejects (30_encoding.md R98). -/
def assemble (c : AsmCommand) : Option Instr :=
  match c with
  | .nop => some .nop
  | .derive operand => if operand ≤ 7 then some (.derive (BitVec.ofNat 3 operand)) else none
  | .deriveAlias m => some (.derive (BitVec.ofNat 3 m.number))
  | .selftest => some .selftest
  | .clearFault => some .clearFault

/-- The 32-bit word whose table bits are the low nbits bits of w, every bit above them 0. -/
def wordOfTableBits (nbits w : Nat) : Word := BitVec.ofNat 32 (w % 2 ^ nbits)

/-- The instruction the decoder reads from a word numbered as opcode_table.json numbers it: its lanes are laid out
lowest address first and given to the decoder. -/
def decodeTableWord (nbits w : Nat) : Option Instr :=
  match decodeBytes (lanesOfWord (wordOfTableBits nbits w)) with
  | some (.command i, _) => some i
  | some (.illegal _, _) => none
  | none => none

end Sys2Proof
end

