-- ==== Sys2Proof/Machine/State.lean ====
section
/-! DEFINITION. The state of the block (10_state.md) as plain data, the reasons a step can stop, the state after
reset. -/

namespace Sys2Proof.Machine

open Sys2Proof

/-- The cause codes 0 to 10 of 60_exceptions.md R210; 11 to 15 are never written (10_state.md R31). -/
inductive Cause where
  /-- 0, NONE: no fault recorded. -/
  | noFault
  /-- 1, ILLEGAL_CMD. -/
  | illegalCmd
  /-- 2, INVALID_MODE. -/
  | invalidMode
  /-- 3, CONST_TABLE. -/
  | constTable
  /-- 4, PRN_ROW_RANGE. -/
  | prnRowRange
  /-- 5, PRN_KPRIME. -/
  | prnKprime
  /-- 6, FI_COUNT. -/
  | fiCount
  /-- 7, FI_DUPLICATE. -/
  | fiDuplicate
  /-- 8, FI_GOLDEN. -/
  | fiGolden
  /-- 9, FI_ARRAY. -/
  | fiArray
  /-- 10, FI_ROUNDTRIP. -/
  | fiRoundtrip
  deriving DecidableEq, Repr

/-- The fields of the STATUS register (10_state.md R24); its reserved bits hold nothing. -/
structure Status where
  /-- BUSY, bit 0 (R25). -/
  busy : Bool
  /-- VALID, bit 1 (R26). -/
  valid : Bool
  /-- FAULT, bit 2 (R27). -/
  fault : Bool
  /-- OVERRUN, bit 3 (R28). -/
  overrun : Bool
  /-- ROM_OK, bit 4 (R29). -/
  romOk : Bool
  /-- ACTIVE_MODE, bits 10:8 (R30). -/
  activeMode : BitVec 3
  /-- CAUSE, bits 19:16 (R31). -/
  cause : Cause
  deriving DecidableEq, Repr

/-- ENG.OP (10_state.md R44). -/
inductive EngOp where
  | idle
  | selftest
  | derive
  deriving DecidableEq, Repr

/-- The engine's hidden command state ENG (10_state.md R44). -/
structure Eng where
  op : EngOp
  /-- The mode field of the accepted DERIVE. -/
  mode : BitVec 3
  /-- Engine steps left before the completion step. -/
  left : Nat
  deriving DecidableEq, Repr

/-- The four output RAMs (10_state.md R35 to R38), each a list of (index, entry) pairs with indices strictly rising; an
index that is not listed is absent: its content is unspecified (10_state.md R47, log entry 4). -/
structure Memory where
  prn : List (Nat × BitVec 2)
  fis : List (Nat × BitVec 12)
  ilv : List (Nat × BitVec 11)
  dil : List (Nat × BitVec 11)
  deriving DecidableEq, Repr

/-- No RAM entry listed: what reset leaves (10_state.md R46) and what a faulting DERIVE leaves (40_commands.md R120). -/
def Memory.absent : Memory := ⟨[], [], [], []⟩

/-- Indices strictly rising and below W. -/
def ramWf (n : Nat) (r : List (Nat × BitVec n)) : Bool :=
  decide ((r.map Prod.fst).Pairwise (· < ·) ∧ ∀ e ∈ r, e.1 < Config.windowDepth)

/-- The canonical form of the four RAMs: equal contents are equal lists. -/
def Memory.wf (m : Memory) : Bool := ramWf 2 m.prn && ramWf 12 m.fis && ramWf 11 m.ilv && ramWf 11 m.dil

/-- The response of a bus transaction (20_memory.md R60). -/
inductive RespCode where
  | okay
  | busError
  deriving DecidableEq, Repr

/-- What the port answers: a read gives a response and data, a write a response (20_memory.md R60). -/
inductive Response where
  | read (code : RespCode) (data : Word)
  | write (code : RespCode)
  deriving DecidableEq, Repr

/-- One move of an agent: a host transaction (20_memory.md R70), a turn of the engine (70_reset_and_hazards.md R252), the
reset input released (70_reset_and_hazards.md R240). -/
inductive Event where
  | host (t : Txn)
  | engine
  | reset
  deriving DecidableEq, Repr

/-- The state of the block. The last three fields are the model's own (log entries 2 and 3). -/
structure State where
  /-- STATUS (10_state.md R24). -/
  status : Status
  /-- FAULT_INFO (10_state.md R33). -/
  faultInfo : Word
  /-- PRN_RAM, FIS_RAM, ILV_RAM, DIL_RAM (10_state.md R35 to R38). -/
  mem : Memory
  /-- ENG (10_state.md R44). -/
  eng : Eng
  /-- The ROMs (10_state.md R40 to R43): written by nothing. -/
  rom : Rom
  /-- The moves still to come, first one first; when none is left the engine moves. -/
  agenda : List Event
  /-- What the port answered to the last host transaction. -/
  resp : Option Response
  /-- How many latencies have been drawn. -/
  draws : Nat
  deriving DecidableEq, Repr

/-- States in which no rule of the spec gives a next state. No run reaches one (Safety.lean's invariant rules them out). -/
inductive Fault where
  /-- A constant register or a window is read while VALID = 1 and ACTIVE_MODE is outside 1..4: MODE_CONST has no such
  record (10_state.md R30, R34). Raised by a host read. Safe: the model stops where no hardware state exists. -/
  | activeModeUndefined
  /-- The engine completes a DERIVE whose ENG.MODE is outside 1..4: Derive(m) is given for 1..4 only (40_commands.md R121).
  Raised by an engine step. Safe: the model stops where no hardware state exists. -/
  | engineModeUndefined
  deriving DecidableEq, Repr

/-- Why the model gives no meaning. -/
inductive Refusal where
  /-- A command that has no meaning yet, by its mnemonic. Raised by exec's refused arms; there are none. Safe. -/
  | notModelled (mnemonic : String)
  /-- The engine is about to read a ROM parameter set that breaks a premise of 10_state.md R48: "a model refuses a
  parameter set that breaks one". Raised by a completion step of the engine. Safe: such a set is outside the spec. -/
  | romNotAdmitted
  deriving DecidableEq, Repr

/-- The state right after reset is released, for given ROMs: 10_state.md R46. The reset self-test is running
(70_reset_and_hazards.md R241) with its latency drawn (R252); nextDraw is the number of that draw. The RAMs are absent
(log entry 4), ENG.MODE is 0 (log entry 5). -/
def State.afterReset (rom : Rom) (nextDraw : Nat) (agenda : List Event) : State where
  status :=
    { busy := true, valid := false, fault := false, overrun := false, romOk := false, activeMode := 0#3,
      cause := .noFault }
  faultInfo := 0x00000000#32
  mem := Memory.absent
  eng := { op := .selftest, mode := 0#3, left := Config.latSelftest nextDraw }
  rom := rom
  agenda := agenda
  resp := none
  draws := nextDraw + 1

/-- The machine right after reset (10_state.md R46), built with the ROMs of Config.rom, no host transaction issued yet. -/
def State.reset : State := State.afterReset Config.rom 0 []

end Sys2Proof.Machine
end

