-- ==== Sys2Proof/Machine/Ops.lean ====
section
/-! DEFINITION. Named operations over words, ROMs, RAMs and registers, the fault primitive and the clearing of the
fault record. -/

namespace Sys2Proof.Machine

open Sys2Proof

/-- The three outcomes of one step of this machine. -/
abbrev Result := Host.Outcome State Fault Refusal

/-- Floor division for a positive divisor (00_scope.md R11): Lean's integer division rounds toward negative infinity when
the divisor is positive, and its % is then the r of 0 <= r < b. -/
def fdiv (a b : Int) : Int := a / b

/-- zext_n: zero extension to 32 bits (00_scope.md R12). -/
def zext32 {n : Nat} (v : BitVec n) : Word := v.setWidth 32

/-- sext_n: sign extension to 32 bits (00_scope.md R12). -/
def sext32 {n : Nat} (v : BitVec n) : Word := v.signExtend 32

/-- trunc_n: the low n bits of the two's complement form of an integer (00_scope.md R12). -/
def trunc (n : Nat) (x : Int) : BitVec n := BitVec.ofInt n x

/-- PHASE_H[i][col], the column taken mod 32 (10_state.md R42). -/
def phaseEntry (h : PhaseTable) (i : BitVec 2) (col : Nat) : PhaseCode :=
  (h[i.toNat]'i.isLt)[col % 32]'(Nat.mod_lt _ (by decide))

/-- Entry j of a RAM; none where the entry is absent (10_state.md R47). -/
def ramRead {α : Type} (r : List (Nat × α)) (j : Nat) : Option α := (r.find? (fun e => e.1 == j)).map Prod.snd

/-- The pairs (start, v0), (start + 1, v1), ... -/
def ramEntries {α : Type} (start : Nat) : List α → List (Nat × α)
  | [] => []
  | v :: vs => (start, v) :: ramEntries (start + 1) vs

/-- X_RAM[j] <- vals[j] for 0 <= j < K, K the length of vals; entries from K on are not written (40_commands.md R120,
10_state.md R35). -/
def ramCommit {α : Type} (vals : List α) (r : List (Nat × α)) : List (Nat × α) :=
  ramEntries 0 vals ++ r.filter (fun e => decide (vals.length ≤ e.1))

/-- The cause and info word a check raises (60_exceptions.md R210). -/
structure Raise where
  cause : Cause
  info : Word
  deriving DecidableEq, Repr

/-- raise Fault(c, info) (60_exceptions.md R215): the fault record is written, the last fault wins; VALID, ACTIVE_MODE and
BUSY are cleared; the engine is idle. Nothing else changes. -/
def raiseFault (r : Raise) (s : State) : State :=
  { s with
    status := { s.status with fault := true, cause := r.cause, valid := false, activeMode := 0#3, busy := false }
    faultInfo := r.info
    eng := { s.eng with op := .idle } }

/-- FAULT <- 0; CAUSE <- 0; FAULT_INFO <- 0: all there is to "return from" a fault (60_exceptions.md R220; 40_commands.md
R114, R118, R122). -/
def clearFaultRecord (s : State) : State :=
  { s with status := { s.status with fault := false, cause := .noFault }, faultInfo := 0x00000000#32 }

/-- VALID <- 0; ACTIVE_MODE <- 0: the snapshot stops being readable (40_commands.md R118). -/
def dropSnapshot (s : State) : State :=
  { s with status := { s.status with valid := false, activeMode := 0#3 } }

/-- The engine starts a command: BUSY <- 1, ENG.OP and ENG.LEFT written, one latency drawn (40_commands.md R114, R118;
70_reset_and_hazards.md R252). left is LAT - 1. -/
def startEngine (op : EngOp) (left : Nat) (s : State) : State :=
  { s with
    status := { s.status with busy := true }
    eng := { s.eng with op := op, left := left }
    draws := s.draws + 1 }

/-- ENG.MODE <- f (40_commands.md R118). -/
def setEngMode (f : BitVec 3) (s : State) : State := { s with eng := { s.eng with mode := f } }

/-- BUSY <- 0; ENG.OP <- IDLE (40_commands.md R116, R120). -/
def finishEngine (s : State) : State :=
  { s with status := { s.status with busy := false }, eng := { s.eng with op := .idle } }

/-- ENG.LEFT <- n, an engine step with no visible change (70_reset_and_hazards.md R252). -/
def setEngLeft (n : Nat) (s : State) : State := { s with eng := { s.eng with left := n } }

/-- RAM contents become unspecified: no entry is listed (40_commands.md R120, log entry 4). -/
def forgetRams (s : State) : State := { s with mem := Memory.absent }

/-- The port answers (20_memory.md R60). -/
def respond (r : Response) (s : State) : State := { s with resp := some r }

/-- The agenda left after a move is taken from it. -/
def setAgenda (rest : List Event) (s : State) : State := { s with agenda := rest }

/-- The platform address of an offset of the block (20_memory.md R61). -/
def platformAddress (a : Addr) : Nat := Config.blockBase + a.toNat

end Sys2Proof.Machine
end

