-- ==== Sys2Proof/Machine/Operands.lean ====
section
/-! DEFINITION. Operand forms: the MODE operand, the address map of the bus (10_state.md R22, 20_memory.md R66), the
window word formats (20_memory.md R78 to R80). -/

namespace Sys2Proof.Machine

open Sys2Proof

/-- The mode a 3-bit mode field names: 1..4 name modes I to IV, 0 and 5..7 name none (30_encoding.md R93, R97;
00_scope.md R7). -/
def modeOfField (f : BitVec 3) : Option Mode :=
  if f = 1#3 then some .I
  else if f = 2#3 then some .II
  else if f = 3#3 then some .III
  else if f = 4#3 then some .IV
  else none

/-- The four read windows (20_memory.md R66). -/
inductive Window where
  | prn
  | fis
  | ilv
  | dil
  deriving DecidableEq, Repr

/-- The seven constant registers (10_state.md R22, R34). -/
inductive ConstReg where
  | symbolsPerFrame
  | numCarriers
  | frameLength
  | nsLength
  | symbolLength
  | fftLength
  | cpLength
  deriving DecidableEq, Repr

/-- What an aligned offset names (20_memory.md R66, 10_state.md R22). -/
inductive Region where
  | cmd
  | status
  | faultInfo
  | const (c : ConstReg)
  | reserved
  | unmapped
  | window (x : Window) (j : Nat)
  deriving DecidableEq, Repr

/-- The register at an offset below 0x100 (10_state.md R22). -/
def registerAt (n : Nat) : Region :=
  if n = 0x0000 then .cmd
  else if n = 0x0004 then .status
  else if n = 0x0008 then .faultInfo
  else if n = 0x0010 then .const .symbolsPerFrame
  else if n = 0x0014 then .const .numCarriers
  else if n = 0x0018 then .const .frameLength
  else if n = 0x001C then .const .nsLength
  else if n = 0x0020 then .const .symbolLength
  else if n = 0x0024 then .const .fftLength
  else if n = 0x0028 then .const .cpLength
  else .reserved

/-- The address map (20_memory.md R66); window entry j stands at base + 4*j (R67). -/
def regionOf (a : Addr) : Region :=
  if a.toNat < 0x0100 then registerAt a.toNat
  else if a.toNat < 0x2000 then .unmapped
  else if a.toNat < 0x4000 then .window .prn ((a.toNat - 0x2000) / 4)
  else if a.toNat < 0x6000 then .window .fis ((a.toNat - 0x4000) / 4)
  else if a.toNat < 0x8000 then .window .ilv ((a.toNat - 0x6000) / 4)
  else if a.toNat < 0xA000 then .window .dil ((a.toNat - 0x8000) / 4)
  else .unmapped

/-- addr[1:0] = 0b00 (20_memory.md R64). -/
def aligned (a : Addr) : Bool := decide (a.extractLsb' 0 2 = 0#2)

/-- The field of a MODE_CONST record a constant register reads (10_state.md R34). -/
def constField (c : ModeConst) : ConstReg → BitVec 20
  | .symbolsPerFrame => c.symbolsPerFrame
  | .numCarriers => c.numCarriers
  | .frameLength => c.frameLength
  | .nsLength => c.nsLength
  | .symbolLength => c.symbolLength
  | .fftLength => c.fftLength
  | .cpLength => c.cpLength

/-- The real part of the unit value a phase code names (00_scope.md R18, 20_memory.md R78). -/
def phaseRe (phi : PhaseCode) : Int :=
  if phi = 0#2 then 1 else if phi = 1#2 then 0 else if phi = 2#2 then -1 else 0

/-- The imaginary part of the unit value a phase code names (00_scope.md R18, 20_memory.md R78). -/
def phaseIm (phi : PhaseCode) : Int :=
  if phi = 0#2 then 0 else if phi = 1#2 then 1 else if phi = 2#2 then 0 else -1

/-- FORMAT_PRN (20_memory.md R78). -/
def formatPrn (phi : PhaseCode) : Word :=
  zext32 (trunc 8 (phaseIm phi) ++ trunc 8 (phaseRe phi) ++ 0b000000#6 ++ phi)

/-- FORMAT_FIS = sext_12 (20_memory.md R79). -/
def formatFis (v : BitVec 12) : Word := sext32 v

/-- FORMAT_ILV = zext_11 (20_memory.md R80). -/
def formatIlv (v : BitVec 11) : Word := zext32 v

/-- FORMAT_DIL = zext_11 (20_memory.md R80). -/
def formatDil (v : BitVec 11) : Word := zext32 v

end Sys2Proof.Machine
end

