-- ==== Sys2Proof/Machine/Flags.lean ====
section
/-! DEFINITION. The STATUS flags (10_state.md R24 to R31, R45), the STATUS word, and the reads of every register and
window. -/

namespace Sys2Proof.Machine

open Sys2Proof

/-- The 4-bit code of a cause (60_exceptions.md R210). -/
def causeCode : Cause → BitVec 4
  | .noFault => 0#4
  | .illegalCmd => 1#4
  | .invalidMode => 2#4
  | .constTable => 3#4
  | .prnRowRange => 4#4
  | .prnKprime => 5#4
  | .fiCount => 6#4
  | .fiDuplicate => 7#4
  | .fiGolden => 8#4
  | .fiArray => 9#4
  | .fiRoundtrip => 10#4

/-- The STATUS word: CAUSE 19:16, ACTIVE_MODE 10:8, ROM_OK 4, OVERRUN 3, FAULT 2, VALID 1, BUSY 0, every reserved bit 0
(10_state.md R24, R32). -/
def statusWord (t : Status) : Word :=
  0#12 ++ causeCode t.cause ++ 0#5 ++ t.activeMode ++ 0#3 ++ BitVec.ofBool t.romOk ++ BitVec.ofBool t.overrun ++
    BitVec.ofBool t.fault ++ BitVec.ofBool t.valid ++ BitVec.ofBool t.busy

/-- OVERRUN <- b (10_state.md R28). -/
def setOverrun (b : Bool) (s : State) : State := { s with status := { s.status with overrun := b } }

/-- ROM_OK <- b (10_state.md R29). -/
def setRomOk (b : Bool) (s : State) : State := { s with status := { s.status with romOk := b } }

/-- VALID <- 1; ACTIVE_MODE <- f, written together (10_state.md R26, R30; 40_commands.md R120). -/
def setSnapshot (f : BitVec 3) (s : State) : State :=
  { s with status := { s.status with valid := true, activeMode := f } }

/-- The snapshot length K of a mode: its NUM_CARRIERS (10_state.md R39). -/
def carriersOf (rom : Rom) (m : Mode) : Nat := (rom.mode m).consts.numCarriers.toNat

/-- FORMAT_X(X_RAM[j]); an absent entry gives the masked word (10_state.md R47, 20_memory.md R78 to R80). -/
def ramWord (m : Memory) (x : Window) (j : Nat) : Word :=
  match x with
  | .prn => ((ramRead m.prn j).map formatPrn).getD 0x00000000#32
  | .fis => ((ramRead m.fis j).map formatFis).getD 0x00000000#32
  | .ilv => ((ramRead m.ilv j).map formatIlv).getD 0x00000000#32
  | .dil => ((ramRead m.dil j).map formatDil).getD 0x00000000#32

/-- A constant register: the field of MODE_CONST[ACTIVE_MODE] while VALID = 1, else 0 (10_state.md R34). -/
def readConst (s : State) (c : ConstReg) : Except Fault Word :=
  match s.status.valid with
  | true =>
    match modeOfField s.status.activeMode with
    | some m => .ok (zext32 (constField (s.rom.mode m).consts c))
    | none => .error .activeModeUndefined
  | false => .ok 0x00000000#32

/-- A window entry: the formatted RAM entry while VALID = 1 and j < K, else 0 (20_memory.md R67). -/
def readWindow (s : State) (x : Window) (j : Nat) : Except Fault Word :=
  match s.status.valid with
  | true =>
    match modeOfField s.status.activeMode with
    | some m => if j < carriersOf s.rom m then .ok (ramWord s.mem x j) else .ok 0x00000000#32
    | none => .error .activeModeUndefined
  | false => .ok 0x00000000#32

/-- The data an aligned read returns (10_state.md R23, R24, R32 to R34; 20_memory.md R67, R69). -/
def readWord (s : State) (a : Addr) : Except Fault Word :=
  match regionOf a with
  | .cmd => .ok 0x00000000#32
  | .status => .ok (statusWord s.status)
  | .faultInfo => .ok s.faultInfo
  | .const c => readConst s c
  | .reserved => .ok 0x00000000#32
  | .unmapped => .ok 0x00000000#32
  | .window x j => readWindow s x j

end Sys2Proof.Machine
end

