-- ==== Sys2Proof/Machine/Control.lean ====
section
/-! DEFINITION. The commands that end at once: NOP, CLEAR_FAULT, an illegal word, and a CMD write dropped while the engine
runs (40_commands.md R111, R112, R122, R124). -/

namespace Sys2Proof.Machine

open Sys2Proof

/-- NOP: no state change (40_commands.md R112). -/
def execNop (s : State) : Result := .next s

/-- CLEAR_FAULT: FAULT, CAUSE, FAULT_INFO and OVERRUN cleared (40_commands.md R122). -/
def execClearFault (s : State) : Result := .next (setOverrun false (clearFaultRecord s))

/-- An illegal command word: raise Fault(ILLEGAL_CMD, w) (40_commands.md R124). -/
def execIllegal (w : Word) (s : State) : Result := .next (raiseFault ⟨.illegalCmd, w⟩ s)

/-- A CMD write while BUSY = 1: not decoded, OVERRUN <- 1 and nothing else (40_commands.md R111). -/
def dropCommand (s : State) : Result := .next (setOverrun true s)

end Sys2Proof.Machine
end

