-- ==== Sys2Proof/Machine/Interleaver.lean ====
section
/-! DEFINITION. The frequency-interleaving stage of DERIVE (42_frequency_interleaver.md). -/

namespace Sys2Proof.Machine

open Sys2Proof

/-- N = MODE_CONST[m].fft_length (42_frequency_interleaver.md R170). -/
def fftLengthOf (rom : Rom) (m : Mode) : Nat := (rom.mode m).consts.fftLength.toNat

/-- One step of the recurrence: (13*A + a) mod N with a = N/4 - 1 (42_frequency_interleaver.md R171). N is at least 8 under
10_state.md R48, so the natural subtraction is exact. -/
def lcrNext (N A : Nat) : Nat := (13 * A + (N / 4 - 1)) % N

/-- The count recurrence values from A on. -/
def lcrFrom (N : Nat) : Nat → Nat → List Nat
  | 0, _ => []
  | count + 1, A => A :: lcrFrom N count (lcrNext N A)

/-- A[0], A[1], ..., A[N-1] with A[0] = 0 (42_frequency_interleaver.md R171). -/
def lcrValues (N : Nat) : List Nat := lcrFrom N N 0

/-- The filter on one value (42_frequency_interleaver.md R172). -/
def survives (N d : Nat) : Bool := decide (N / 8 ≤ d ∧ d ≤ 7 * N / 8 ∧ d ≠ N / 2)

/-- Recentring (42_frequency_interleaver.md R173). -/
def recentre (N d : Nat) : Int := (d : Int) - fdiv N 2

/-- The survivor sequence S, in generation order (42_frequency_interleaver.md R174). -/
def survivors (N : Nat) : List Int := ((lcrValues N).filter (survives N)).map (recentre N)

/-- The smallest j below n for which bad holds: the scan order of every check of the stage. -/
def firstBad (n : Nat) (bad : Nat → Bool) : Option Nat := (List.range n).find? bad

/-- The count check (42_frequency_interleaver.md R180). -/
def countCheck (K : Nat) (S : List Int) : Option Raise :=
  if S.length ≠ K then some ⟨.fiCount, BitVec.ofNat 32 S.length⟩ else none

/-- S[j] = S[j'] for some j' < j (42_frequency_interleaver.md R181). -/
def repeatsAt (S : List Int) (j : Nat) : Bool := decide (S.getD j 0 ∈ S.take j)

/-- The duplicate check: the info word is the repeated value (42_frequency_interleaver.md R181). -/
def duplicateCheck (K : Nat) (S : List Int) : Option Raise :=
  match firstBad K (repeatsAt S) with
  | some j => some ⟨.fiDuplicate, trunc 32 (S.getD j 0)⟩
  | none => none

/-- The golden check: the info word is the smallest failing index (42_frequency_interleaver.md R184). -/
def goldenCheck (golden S : List Int) : Option Raise :=
  match firstBad golden.length (fun j => decide (S[j]? ≠ golden[j]?)) with
  | some j => some ⟨.fiGolden, BitVec.ofNat 32 j⟩
  | none => none

/-- The array form of one sequence value (42_frequency_interleaver.md R186). -/
def arrayIndex (K : Nat) (v : Int) : Int := v + fdiv K 2 - (if 0 < v then 1 else 0)

/-- The array form ILV before its check, over the integers (42_frequency_interleaver.md R186). -/
def arrayForm (K : Nat) (S : List Int) : List Int := S.map (arrayIndex K)

/-- ILV[u] < 0, or ILV[u] > K-1, or ILV[u] = ILV[u'] for some u' < u (42_frequency_interleaver.md R187). -/
def arrayBad (K : Nat) (ilv : List Int) (u : Nat) : Bool :=
  decide (ilv.getD u 0 < 0 ∨ (K : Int) - 1 < ilv.getD u 0 ∨ ilv.getD u 0 ∈ ilv.take u)

/-- The array check: the info word is the smallest failing index (42_frequency_interleaver.md R187). -/
def arrayCheck (K : Nat) (ilv : List Int) : Option Raise :=
  match firstBad K (arrayBad K ilv) with
  | some u => some ⟨.fiArray, BitVec.ofNat 32 u⟩
  | none => none

/-- The writes DIL[ILV[u]] <- u for u = start, start + 1, ... in this order (42_frequency_interleaver.md R188). -/
def writeInverse (start : Nat) : List Nat → List Nat → List Nat
  | [], dil => dil
  | v :: vs, dil => writeInverse (start + 1) vs (dil.set v start)

/-- The deinterleaving sequence (42_frequency_interleaver.md R188). After the array check every entry is written exactly
once, so what it held before the writes is never seen. -/
def inverseOf (K : Nat) (ilv : List Nat) : List Nat := writeInverse 0 ilv (List.replicate K 0)

/-- DIL[ILV[j]] ≠ j or ILV[DIL[j]] ≠ j (42_frequency_interleaver.md R189). -/
def roundtripBad (ilv dil : List Nat) (j : Nat) : Bool :=
  decide (dil.getD (ilv.getD j 0) 0 ≠ j ∨ ilv.getD (dil.getD j 0) 0 ≠ j)

/-- The round-trip check: the info word is the smallest failing index (42_frequency_interleaver.md R189). -/
def roundtripCheck (K : Nat) (ilv dil : List Nat) : Option Raise :=
  match firstBad K (roundtripBad ilv dil) with
  | some j => some ⟨.fiRoundtrip, BitVec.ofNat 32 j⟩
  | none => none

/-- What the stage returns: S, ILV, DIL (42_frequency_interleaver.md R190). -/
structure FiResult where
  fis : List Int
  ilv : List Nat
  dil : List Nat
  deriving DecidableEq, Repr

/-- The checks of the stage in their order, the first failing one reported (42_frequency_interleaver.md R190). -/
def fiChecks (K : Nat) (golden S : List Int) : Except Raise FiResult :=
  match countCheck K S with
  | some r => .error r
  | none =>
    match duplicateCheck K S with
    | some r => .error r
    | none =>
      match goldenCheck golden S with
      | some r => .error r
      | none =>
        match arrayCheck K (arrayForm K S) with
        | some r => .error r
        | none =>
          let ilv := (arrayForm K S).map Int.toNat
          let dil := inverseOf K ilv
          match roundtripCheck K ilv dil with
          | some r => .error r
          | none => .ok ⟨S, ilv, dil⟩

/-- FiStage(m) (42_frequency_interleaver.md R190). -/
def fiStage (rom : Rom) (m : Mode) : Except Raise FiResult :=
  fiChecks (carriersOf rom m) (rom.mode m).golden (survivors (fftLengthOf rom m))

end Sys2Proof.Machine
end

