-- ==== Sys2Proof/Machine/PhaseReference.lean ====
section
/-! DEFINITION. The PRN phase-reference stage of DERIVE (41_prn_generator.md). -/

namespace Sys2Proof.Machine

open Sys2Proof

/-- The carriers in the order they are visited: -K/2 to K/2 ascending without 0 (41_prn_generator.md R141). -/
def carrierOrder (K : Nat) : List Int :=
  (List.range (K / 2)).map (fun (j : Nat) => (j : Int) - (K / 2 : Nat)) ++
    (List.range (K / 2)).map (fun (j : Nat) => (j : Int) + 1)

/-- The row index idx of a carrier (41_prn_generator.md R142). -/
def rowIndex (K : Nat) (k : Int) : Int :=
  if k < 0 then fdiv (k + fdiv K 2) 32 else fdiv (k + fdiv K 2 - 1) 32

/-- The computed anchor k' of a carrier (41_prn_generator.md R142). -/
def anchor (k : Int) : Int := if k < 0 then 32 * fdiv k 32 else 32 * fdiv (k - 1) 32 + 1

/-- The phase-table column (k - k') mod 32 (41_prn_generator.md R144). -/
def phaseColumn (k : Int) : Nat := ((k - anchor k) % 32).toNat

/-- The row PRN_ROWS[m][idx] (41_prn_generator.md R143). Under 10_state.md R48 the row always exists, and the engine reads no
ROM that breaks R48. -/
def prnRowAt (rows : List PrnRow) (K : Nat) (k : Int) : PrnRow := rows.getD (rowIndex K k).toNat default

/-- One carrier: the range check, the anchor check, then the phase (41_prn_generator.md R144, R145). The sum of the two 2-bit
codes wraps mod 4. -/
def prnCarrier (rows : List PrnRow) (h : PhaseTable) (K : Nat) (k : Int) : Except Raise PhaseCode :=
  let row := prnRowAt rows K k
  if ¬(row.kMin.toInt ≤ k ∧ k ≤ row.kMax.toInt) then .error ⟨.prnRowRange, trunc 32 k⟩
  else if anchor k ≠ row.kAnchor.toInt then .error ⟨.prnKprime, trunc 32 k⟩
  else .ok (phaseEntry h row.i (phaseColumn k) + row.n)

/-- The walk over the carriers, stopping at the first failing check (41_prn_generator.md R145, R147). -/
def prnWalk (rows : List PrnRow) (h : PhaseTable) (K : Nat) : List Int → Except Raise (List PhaseCode)
  | [] => .ok []
  | k :: ks =>
    match prnCarrier rows h K k with
    | .error r => .error r
    | .ok phi =>
      match prnWalk rows h K ks with
      | .error r => .error r
      | .ok out => .ok (phi :: out)

/-- PrnStage(m) (41_prn_generator.md R147). -/
def prnStage (rom : Rom) (m : Mode) : Except Raise (List PhaseCode) :=
  prnWalk (rom.mode m).prnRows rom.phaseH (carriersOf rom m) (carrierOrder (carriersOf rom m))

end Sys2Proof.Machine
end

