-- ==== Sys2Proof/Machine/Derive.lean ====
section
/-! DEFINITION. DERIVE: acceptance, the ROM gate, the derivation function, completion (40_commands.md R117 to R121). -/

namespace Sys2Proof.Machine

open Sys2Proof

/-- What a successful derivation gives (40_commands.md R121). -/
structure Snapshot where
  prn : List PhaseCode
  fis : List Int
  ilv : List Nat
  dil : List Nat
  deriving DecidableEq, Repr

/-- Derive(m): the PRN stage, then the frequency-interleaving stage (40_commands.md R121). -/
def derivation (rom : Rom) (m : Mode) : Except Raise Snapshot :=
  match prnStage rom m with
  | .error r => .error r
  | .ok prn =>
    match fiStage rom m with
    | .error r => .error r
    | .ok f => .ok ⟨prn, f.fis, f.ilv, f.dil⟩

/-- DERIVE acceptance (40_commands.md R118): the fault record and the snapshot are dropped, the mode is checked first, the
ROM gate (R119) second; then the engine starts. No path writes a RAM: on the two faults of acceptance, after which decision D38 and
93_implementation_defined.md A1 leave the RAM contents unspecified, that they are kept is the model's choice (DESIGN CHOICE, log
entry 4). -/
def execDerive (f : BitVec 3) (s : State) : Result :=
  let s1 := dropSnapshot (clearFaultRecord s)
  match modeOfField f with
  | none => .next (raiseFault ⟨.invalidMode, zext32 f⟩ s1)
  | some _ =>
    match s1.status.romOk with
    | true => .next (setEngMode f (startEngine .derive (Config.latDerive s.draws) s1))
    | false => .next (raiseFault ⟨.constTable, 0x00000000#32⟩ s1)

/-- The four RAMs after the writes of 40_commands.md R120. -/
def commitMemory (p : Snapshot) (m : Memory) : Memory where
  prn := ramCommit p.prn m.prn
  fis := ramCommit (p.fis.map (trunc 12)) m.fis
  ilv := ramCommit (p.ilv.map (BitVec.ofNat 11)) m.ilv
  dil := ramCommit (p.dil.map (BitVec.ofNat 11)) m.dil

/-- The RAM writes of a successful completion (40_commands.md R120). -/
def commitRams (p : Snapshot) (s : State) : State := { s with mem := commitMemory p s.mem }

/-- DERIVE completion (40_commands.md R120): on success all four RAMs, ACTIVE_MODE, VALID, BUSY and ENG.OP in one step; on a
fault no snapshot, the RAM contents unspecified (log entry 4). -/
def completeDerive (s : State) : Result :=
  match modeOfField s.eng.mode with
  | none => .fault .engineModeUndefined
  | some m =>
    match derivation s.rom m with
    | .error r => .next (forgetRams (raiseFault r s))
    | .ok p => .next (finishEngine (setSnapshot s.eng.mode (commitRams p s)))

end Sys2Proof.Machine
end

