-- ==== Sys2Proof/Machine/Selftest.lean ====
section
/-! DEFINITION. SELFTEST: acceptance, the consistency check, completion (40_commands.md R113 to R116). -/

namespace Sys2Proof.Machine

open Sys2Proof

/-- The two identities of one mode's constants, the frame-length identity first (40_commands.md R115). The info word is m,
with bit 8 set for the symbol-length identity. -/
def constCheckMode (rom : Rom) (m : Mode) : Option Raise :=
  let c := (rom.mode m).consts
  if c.symbolsPerFrame.toNat * c.symbolLength.toNat + c.nsLength.toNat ≠ c.frameLength.toNat then
    some ⟨.constTable, BitVec.ofNat 32 m.number⟩
  else if c.symbolLength.toNat ≠ c.fftLength.toNat + c.cpLength.toNat then
    some ⟨.constTable, 0x00000100#32 ||| BitVec.ofNat 32 m.number⟩
  else none

/-- The first failing check over a list of modes. -/
def constCheckModes (rom : Rom) : List Mode → Option Raise
  | [] => none
  | m :: ms =>
    match constCheckMode rom m with
    | some r => some r
    | none => constCheckModes rom ms

/-- ConstCheck: modes 1, 2, 3, 4 in this order; none when every identity holds (40_commands.md R115). -/
def constCheck (rom : Rom) : Option Raise := constCheckModes rom [.I, .II, .III, .IV]

/-- SELFTEST acceptance (40_commands.md R114); ROM_OK keeps its value. -/
def execSelftest (s : State) : Result :=
  .next (startEngine .selftest (Config.latSelftest s.draws) (clearFaultRecord s))

/-- SELFTEST completion (40_commands.md R116). -/
def completeSelftest (s : State) : State :=
  match constCheck s.rom with
  | some r => setRomOk false (raiseFault r s)
  | none => finishEngine (setRomOk true s)

end Sys2Proof.Machine
end

