-- ==== Sys2Proof/Machine/Dispatch.lean ====
section
/-! DEFINITION. The meaning of each command when it is accepted (40_commands.md R110), one arm per constructor. -/

namespace Sys2Proof.Machine

open Sys2Proof

def exec (i : Instr) (s : State) : Host.Outcome State Fault Refusal :=
  match i with
  | .nop => Sys2Proof.Machine.execNop s
  | .derive f => Sys2Proof.Machine.execDerive f s
  | .selftest => Sys2Proof.Machine.execSelftest s
  | .clearFault => Sys2Proof.Machine.execClearFault s

end Sys2Proof.Machine
end

