-- ==== Sys2Proof/Machine/Engine.lean ====
section
/-! DEFINITION. The engine step (70_reset_and_hazards.md R252) and the reset input (R240). -/

namespace Sys2Proof.Machine

open Sys2Proof

/-- The completion steps read the ROMs; a ROM set that breaks a premise is refused (10_state.md R48). -/
def onAdmittedRom (s : State) (r : Result) : Result :=
  match s.rom.admitted with
  | true => r
  | false => .refused .romNotAdmitted

/-- engine_step (70_reset_and_hazards.md R252). With ENG.OP = IDLE no step is enabled and nothing changes. -/
def engineStep (s : State) : Result :=
  match s.eng.op, s.eng.left with
  | .idle, _ => .next s
  | .selftest, n + 1 => .next (setEngLeft n s)
  | .derive, n + 1 => .next (setEngLeft n s)
  | .selftest, 0 => onAdmittedRom s (.next (completeSelftest s))
  | .derive, 0 => onAdmittedRom s (completeDerive s)

/-- Reset released: every state element takes its reset value, the ROMs stay (70_reset_and_hazards.md R240, R241). -/
def resetBlock (s : State) : State := State.afterReset s.rom s.draws s.agenda

end Sys2Proof.Machine
end

