-- ==== Sys2Proof/Machine/Port.lean ====
section
/-! DEFINITION. The bus port: reads, writes, the CMD write, host script lines (20_memory.md R60 to R71, 40_commands.md R110,
30_encoding.md R99). -/

namespace Sys2Proof.Machine

open Sys2Proof

/-- A CMD write with the answer already given: dropped while BUSY = 1, else decoded and executed (40_commands.md R110). -/
def cmdWrite (w : Word) (s : State) : Result :=
  match s.status.busy with
  | true => dropCommand s
  | false =>
    match decode w with
    | .command i => exec i s
    | .illegal _ => execIllegal w s

/-- MemRead(addr, 4): BusError with data 0 when misaligned (20_memory.md R64), else OKAY with the word read; no read has a
side effect (R71). -/
def busRead (a : Addr) (s : State) : Result :=
  match aligned a with
  | true =>
    match readWord s a with
    | .ok w => .next (respond (.read .okay w) s)
    | .error f => .fault f
  | false => .next (respond (.read .busError 0x00000000#32) s)

/-- MemWrite(addr, 4, v): BusError and no effect when misaligned (20_memory.md R64); a write to CMD presents a command, every
other write is ignored with OKAY (R68, R69, R71). -/
def busWrite (a : Addr) (v : Word) (s : State) : Result :=
  match aligned a with
  | true =>
    match regionOf a with
    | .cmd => cmdWrite v (respond (.write .okay) s)
    | .status => .next (respond (.write .okay) s)
    | .faultInfo => .next (respond (.write .okay) s)
    | .const _ => .next (respond (.write .okay) s)
    | .reserved => .next (respond (.write .okay) s)
    | .unmapped => .next (respond (.write .okay) s)
    | .window _ _ => .next (respond (.write .okay) s)
  | false => .next (respond (.write .busError) s)

/-- One host transaction, whole and indivisible (20_memory.md R65, R70). -/
def transact (t : Txn) (s : State) : Result :=
  match t with
  | .read a => busRead a s
  | .write a v => busWrite a v s

/-- One move of the agenda. -/
def moveOf (e : Event) (s : State) : Result :=
  match e with
  | .host t => transact t s
  | .engine => engineStep s
  | .reset => .next (resetBlock s)

/-- The next move: the agenda's first, or the engine's when the agenda is exhausted (70_reset_and_hazards.md R252; log entry
2). -/
def nextMove (s : State) : Result :=
  match s.agenda with
  | [] => engineStep s
  | e :: rest => moveOf e (setAgenda rest s)

/-- The CMD write that issues a word. -/
def issueWord (w : Word) : Event := .host (.write 0x0000#16 w)

/-- The engine idle: what stands before a command can be accepted (log entry 6). -/
def idleEngine (s : State) : State := finishEngine s

/-- The transactions of one pass through a script line (30_encoding.md R99); none where the assembler rejects. -/
def lineTransactions (l : HostLine) : Option (List Txn) :=
  match l with
  | .wr off val => some [.write off val]
  | .rd off => some [.read off]
  | .issue c => (assemble c).map (fun i => [.write 0x0000#16 (encode i)])
  | .poll off _ _ => some [.read off]
  | .waitIdle => some [.read 0x0004#16]
  | .expect _ _ => some []

/-- Whether a line that polls goes round again after reading t: (t & mask) ≠ val (30_encoding.md R99). -/
def lineRepeats (l : HostLine) (t : Word) : Bool :=
  match l with
  | .poll _ mask val => decide (t &&& mask ≠ val)
  | .waitIdle => decide (t &&& 0x00000001#32 ≠ 0x00000000#32)
  | .wr _ _ | .rd _ | .issue _ | .expect _ _ => false

end Sys2Proof.Machine
end

