-- ==== Sys2Proof/Machine/Step.lean ====
section
/-! DEFINITION. One step of the machine: one host transaction, one engine step, or one reset. -/

namespace Sys2Proof.Machine

open Sys2Proof

/-- One move of one agent (20_memory.md R70, 70_reset_and_hazards.md R252, R240). -/
def step (s : State) : Host.Outcome State Fault Refusal := nextMove s

/-- s with the engine idle and, as the host's very next transaction, the CMD write of the word whose table bits are w: the
very next step presents that command to the decoder (log entry 6). -/
def State.withFetchWord (s : State) (nbits w : Nat) : State :=
  setAgenda (issueWord (wordOfTableBits nbits w) :: s.agenda) (idleEngine s)

end Sys2Proof.Machine
end

