-- ==== Sys2Proof/Safety.lean ====
section
/-! DEFINITION. What claims are stated in: the states the block can be in (State.Inv), what it means that the RAMs hold a
snapshot, a run over several moves. -/

namespace Sys2Proof.Machine

open Sys2Proof

/-- The RAMs hold a snapshot: entry j of each RAM is element j of its sequence, for every j of the snapshot (10_state.md R35
to R38). -/
def holdsSnapshot (m : Memory) (p : Snapshot) : Prop :=
  ∀ j, j < p.prn.length →
    ramRead m.prn j = p.prn[j]? ∧
    ramRead m.fis j = (p.fis.map (trunc 12))[j]? ∧
    ramRead m.ilv j = (p.ilv.map (BitVec.ofNat 11))[j]? ∧
    ramRead m.dil j = (p.dil.map (BitVec.ofNat 11))[j]?

/-- The states the block can be in, for every ROM set. -/
structure State.Inv (s : State) : Prop where
  /-- BUSY = 1 exactly when ENG.OP is not IDLE (10_state.md R44). -/
  busyIffRunning : s.status.busy = true ↔ s.eng.op ≠ .idle
  /-- ACTIVE_MODE is 0 while VALID = 0 (10_state.md R30). -/
  noModeWhileInvalid : s.status.valid = false → s.status.activeMode = 0#3
  /-- CAUSE and FAULT_INFO are 0 while FAULT = 0 (10_state.md R31, R33). -/
  noCauseWithoutFault : s.status.fault = false → s.status.cause = .noFault ∧ s.faultInfo = 0x00000000#32
  /-- A recorded fault has a cause, and leaves no snapshot and no running command (60_exceptions.md R210, R215). -/
  faultIsFinal : s.status.fault = true →
    s.status.cause ≠ .noFault ∧ s.status.valid = false ∧ s.status.busy = false
  /-- A running DERIVE has a mode of 1..4, passed the ROM gate and hides the snapshot (40_commands.md R118). -/
  runningDerive : s.eng.op = .derive →
    (modeOfField s.eng.mode).isSome = true ∧ s.status.romOk = true ∧ s.status.valid = false
  /-- ROM_OK = 1 only over an admitted ROM set whose identities hold (10_state.md R29, R48; 40_commands.md R115). -/
  romOkIsTrue : s.status.romOk = true → s.rom.admitted = true ∧ constCheck s.rom = none
  /-- VALID = 1 only with ROM_OK = 1, a mode of 1..4 and the complete result of its derivation (10_state.md R26, R30, R39). -/
  validIsComplete : s.status.valid = true →
    s.status.romOk = true ∧
    ∃ m p, modeOfField s.status.activeMode = some m ∧ derivation s.rom m = .ok p ∧ holdsSnapshot s.mem p
  /-- The RAMs keep their canonical form. -/
  memoryCanonical : s.mem.wf = true

/-- n moves of the machine. -/
def runMoves (n : Nat) (s : State) : Host.Outcome State Fault Refusal := Host.Core.run Sys2Proof.core n s

/-- The two identities of one mode (40_commands.md R115). -/
def frameIdentity (c : ModeConst) : Prop :=
  c.symbolsPerFrame.toNat * c.symbolLength.toNat + c.nsLength.toNat = c.frameLength.toNat

/-- The second identity (40_commands.md R115). -/
def symbolIdentity (c : ModeConst) : Prop := c.symbolLength.toNat = c.fftLength.toNat + c.cpLength.toNat

/-- kps_r, the first of the 32 carriers row r of PRN_ROWS receives (41_prn_generator.md R146). -/
def rowAnchor (K r : Nat) : Int :=
  if r < K / 64 then -((K : Int) / 2) + 32 * r else 32 * ((r : Int) - (K : Int) / 64) + 1

/-- The move a step makes is the engine's completion step of an operation. -/
def completes (op : EngOp) (s : State) : Prop :=
  s.eng.op = op ∧ s.eng.left = 0 ∧ (s.agenda = [] ∨ ∃ rest, s.agenda = .engine :: rest)

/-- The engine's own moves, every read, and every write but an aligned CMD write (offset 0 is aligned): the moves of
20_memory.md R71 between two reads of one address, engine completions apart. -/
def Event.quiet : Event → Bool
  | .engine => true
  | .host (.read _) => true
  | .host (.write a _) => decide (a ≠ 0x0000#16)
  | .reset => false

/-- How many engine turns a list of moves holds. -/
def engineTurns (moves : List Event) : Nat := (moves.filter (fun e => decide (e = .engine))).length

/-- The move a step makes is a CMD write accepted as a command. -/
def accepts (i : Instr) (s : State) : Prop :=
  s.status.busy = false ∧ ∃ w rest, s.agenda = .host (.write 0x0000#16 w) :: rest ∧ decode w = .command i

/-- The move a step makes is the release of reset. -/
def resets (s : State) : Prop := ∃ rest, s.agenda = .reset :: rest

/-- The move a step makes is an illegal CMD word written while BUSY = 0. -/
def acceptsIllegal (s : State) : Prop :=
  s.status.busy = false ∧ ∃ w rest why, s.agenda = .host (.write 0x0000#16 w) :: rest ∧ decode w = .illegal why

end Sys2Proof.Machine
end

