-- ==== Sys2Proof/Certificates/Slice0/Obligations.lean ====
section
/-! DEFINITION. The statements about the block, each a Prop to be settled. Each docstring names the rule of spec/ it
formalises. Where a clause rests on a choice of the model (the log entries of notes/assumptions), the docstring says so. -/

open Sys2Proof Sys2Proof.Machine

/-! ## Encoding -/

/-- R100 (30_encoding.md): the encoding function on every command, and its worked examples. -/
def Obligations.CommandWordsAreAsTheSpecWritesThem : Prop :=
  encode .nop = 0x00000000#32 ∧
  (∀ m : BitVec 3, encode (.derive m) = 0x01000000#32 ||| zext32 m) ∧
  encode .selftest = 0x02000000#32 ∧
  encode .clearFault = 0x03000000#32 ∧
  (assemble (.derive 1)).map encode = some 0x01000001#32 ∧
  (assemble (.deriveAlias .IV)).map encode = some 0x01000004#32 ∧
  (assemble (.derive 5)).map encode = some 0x01000005#32 ∧
  decode 0x01000009#32 = .illegal .reservedNonzero

/-- R95 and R100 (30_encoding.md): every command decodes from its own word, and a word decodes to a command only if it is that
command's word. -/
def Obligations.DecodeAndEncodeAgree : Prop :=
  (∀ i : Instr, decode (encode i) = .command i) ∧
  (∀ (w : Word) (i : Instr), decode w = .command i → w = encode i)

/-- R96 (30_encoding.md): which words are illegal, and what writing one does. -/
def Obligations.IllegalWordsAreExactlyTheUnlistedOnes : Prop :=
  (∀ w : Word, (∃ why, decode w = .illegal why) ↔
    (4 ≤ (opField w).toNat ∨
      ((opField w).toNat < 4 ∧ rsvField w ≠ 0#21) ∨
      ((opField w = 0x00#8 ∨ opField w = 0x02#8 ∨ opField w = 0x03#8) ∧ modeField w ≠ 0#3))) ∧
  (∀ (s : State) (w : Word) (rest : List Event) (why : IllegalWord), decode w = .illegal why →
    s.agenda = .host (.write 0x0000#16 w) :: rest →
    (s.status.busy = false → ∃ t, step s = .next t ∧ t.status.fault = true ∧ t.status.cause = .illegalCmd ∧
      t.faultInfo = w) ∧
    (s.status.busy = true → step s = .next
      { s with
        agenda := rest
        resp := some (.write .okay)
        status := { s.status with overrun := true } }))

/-- R97 (30_encoding.md): the DERIVE words of modes 0, 5, 6, 7 are commands, and fault INVALID_MODE. -/
def Obligations.InvalidModeWordsAreDeriveCommands : Prop :=
  ∀ m : BitVec 3, m = 0#3 ∨ m = 5#3 ∨ m = 6#3 ∨ m = 7#3 →
    decode (0x01000000#32 ||| zext32 m) = .command (.derive m) ∧
    ∀ s : State, ∃ t, exec (.derive m) s = .next t ∧ t.status.fault = true ∧ t.status.cause = .invalidMode ∧
      t.faultInfo = zext32 m ∧ t.eng.op = .idle

/-- R62 (20_memory.md): lane i of a word holds its bits 8i+7 to 8i, and four lanes make the word again. -/
def Obligations.ByteLanesAreLittleEndian : Prop :=
  (∀ (w : Word) (i : Nat), i < 4 → (laneOf w i).toNat = w.toNat / 2 ^ (8 * i) % 256) ∧
  (∀ w : Word, wordOfLanes (laneOf w 0) (laneOf w 1) (laneOf w 2) (laneOf w 3) = w) ∧
  (∀ b0 b1 b2 b3 : Byte, lanesOfWord (wordOfLanes b0 b1 b2 b3) = [b0, b1, b2, b3])

/-- R98 (30_encoding.md): the assembler takes 0..7 and the aliases, and rejects every other operand. -/
def Obligations.AssemblerTakesZeroToSeven : Prop :=
  assemble .nop = some .nop ∧ assemble .selftest = some .selftest ∧ assemble .clearFault = some .clearFault ∧
  (∀ n : Nat, n ≤ 7 → ∃ m : BitVec 3, assemble (.derive n) = some (.derive m) ∧ m.toNat = n) ∧
  (∀ n : Nat, 7 < n → assemble (.derive n) = none) ∧
  assemble (.deriveAlias .I) = assemble (.derive 1) ∧ assemble (.deriveAlias .II) = assemble (.derive 2) ∧
  assemble (.deriveAlias .III) = assemble (.derive 3) ∧ assemble (.deriveAlias .IV) = assemble (.derive 4)

/-! ## The port -/

/-- R110 (40_commands.md): what an aligned CMD write does, in one step: it answers OKAY, and is dropped while BUSY = 1, else
decoded and executed, an illegal word raising ILLEGAL_CMD. -/
def Obligations.CmdWriteRunsTheDecodedCommand : Prop :=
  ∀ (s : State) (w : Word) (rest : List Event), s.agenda = .host (.write 0x0000#16 w) :: rest →
    (s.status.busy = true →
      step s = .next (setOverrun true { s with agenda := rest, resp := some (.write .okay) })) ∧
    (s.status.busy = false → ∀ i, decode w = .command i →
      step s = exec i { s with agenda := rest, resp := some (.write .okay) }) ∧
    (s.status.busy = false → ∀ why, decode w = .illegal why →
      step s = .next (raiseFault ⟨.illegalCmd, w⟩ { s with agenda := rest, resp := some (.write .okay) }))

/-- The model's own State.withFetchWord (log entry 6): the very next step runs the command the word decodes to, from the state
with the engine idle. -/
def Obligations.FetchWordStepRunsTheCommand : Prop :=
  ∀ (s : State) (w : Word) (i : Instr), decode w = .command i →
    decodeTableWord 32 w.toNat = some i ∧
    step (s.withFetchWord 32 w.toNat) = exec i
      { s with
        resp := some (.write .okay)
        status := { s.status with busy := false }
        eng := { s.eng with op := .idle } }

/-- R111 (40_commands.md): a CMD write while BUSY = 1, whatever its word, sets OVERRUN and nothing else. -/
def Obligations.BusyCmdWriteOnlySetsOverrun : Prop :=
  ∀ (s : State) (w : Word) (rest : List Event), s.agenda = .host (.write 0x0000#16 w) :: rest →
    s.status.busy = true →
    step s = .next
      { s with
        agenda := rest
        resp := some (.write .okay)
        status := { s.status with overrun := true } }

/-- R64 (20_memory.md): a misaligned transaction answers BusError, a read with data 0, and has no effect on any state. -/
def Obligations.MisalignedTransactionsHaveNoEffect : Prop :=
  ∀ (s : State) (a : Addr) (rest : List Event), a.extractLsb' 0 2 ≠ 0#2 →
    (s.agenda = .host (.read a) :: rest →
      step s = .next { s with agenda := rest, resp := some (.read .busError 0x00000000#32) }) ∧
    (∀ v, s.agenda = .host (.write a v) :: rest →
      step s = .next { s with agenda := rest, resp := some (.write .busError) })

/-- R68, and the write half of R69 (20_memory.md): an aligned write to any offset but CMD's answers OKAY and changes no
state. -/
def Obligations.WritesOutsideCmdAreIgnored : Prop :=
  ∀ (s : State) (a : Addr) (v : Word) (rest : List Event), a.toNat % 4 = 0 → a ≠ 0x0000#16 →
    s.agenda = .host (.write a v) :: rest →
    step s = .next { s with agenda := rest, resp := some (.write .okay) }

/-- R71 (20_memory.md): a read changes nothing but the port's answer; and two reads of one address with no CMD write, no reset and no
engine completion between them answer the same, whatever other reads, ignored writes and engine turns stand there. (That no
completion stands there: the engine is idle, or has at least as many steps left as there are turns.) -/
def Obligations.ReadsHaveNoSideEffect : Prop :=
  (∀ (s t : State) (a : Addr) (rest : List Event), s.agenda = .host (.read a) :: rest → step s = .next t →
    ∃ c w, t = { s with agenda := rest, resp := some (.read c w) }) ∧
  (∀ (s t u v : State) (a : Addr) (between rest : List Event),
    s.agenda = .host (.read a) :: (between ++ .host (.read a) :: rest) →
    (∀ e ∈ between, e.quiet = true) → (s.eng.op = .idle ∨ engineTurns between ≤ s.eng.left) →
    step s = .next t → runMoves between.length t = .next u → step u = .next v → v.resp = t.resp)

/-- R225 (60_exceptions.md), with R60, R64 and R67 (20_memory.md): an aligned read answers OKAY with the word readWord gives, which
exists in every state of the invariant; an aligned write answers OKAY; BusError is for misalignment alone. -/
def Obligations.BusErrorOnlyForMisalignment : Prop :=
  (∀ (s : State) (a : Addr) (w : Word) (rest : List Event), a.toNat % 4 = 0 → s.agenda = .host (.read a) :: rest →
    readWord s a = .ok w → step s = .next { s with agenda := rest, resp := some (.read .okay w) }) ∧
  (∀ (s : State) (a : Addr), s.Inv → ∃ w, readWord s a = .ok w) ∧
  (∀ (s : State) (a : Addr) (rest : List Event), a.toNat % 4 ≠ 0 → s.agenda = .host (.read a) :: rest →
    step s = .next { s with agenda := rest, resp := some (.read .busError 0x00000000#32) }) ∧
  (∀ (s : State) (a : Addr) (v : Word) (rest : List Event), s.agenda = .host (.write a v) :: rest →
    ∃ t, step s = .next t ∧ t.resp = some (.write (if a.toNat % 4 = 0 then .okay else .busError)))

/-- R249 (70_reset_and_hazards.md): a STATUS read after a CMD write already shows that write's acceptance effects. -/
def Obligations.StatusReadShowsTheAcceptance : Prop :=
  ∀ (s : State) (w : Word) (rest : List Event),
    s.agenda = .host (.write 0x0000#16 w) :: .host (.read 0x0004#16) :: rest →
    ∃ t u, step s = .next t ∧ step t = .next u ∧ u.resp = some (.read .okay (statusWord t.status))

/-! ## Registers and windows -/

/-- R24, R31, R32 (10_state.md) and the code table of R210 (60_exceptions.md): the STATUS word read at 0x0004, field by field, its
reserved bits 0, its CAUSE field the code of the recorded cause, 0 to 10. -/
def Obligations.StatusWordHasTheSpecifiedFields : Prop :=
  ∀ s : State, ∃ w, readWord s 0x0004#16 = .ok w ∧
    w.extractLsb' 0 1 = BitVec.ofBool s.status.busy ∧
    w.extractLsb' 1 1 = BitVec.ofBool s.status.valid ∧
    w.extractLsb' 2 1 = BitVec.ofBool s.status.fault ∧
    w.extractLsb' 3 1 = BitVec.ofBool s.status.overrun ∧
    w.extractLsb' 4 1 = BitVec.ofBool s.status.romOk ∧
    w.extractLsb' 5 3 = 0#3 ∧
    w.extractLsb' 8 3 = s.status.activeMode ∧
    w.extractLsb' 11 5 = 0#5 ∧
    w.extractLsb' 20 12 = 0#12 ∧
    (s.status.cause = .noFault → w.extractLsb' 16 4 = 0#4) ∧
    (s.status.cause = .illegalCmd → w.extractLsb' 16 4 = 1#4) ∧
    (s.status.cause = .invalidMode → w.extractLsb' 16 4 = 2#4) ∧
    (s.status.cause = .constTable → w.extractLsb' 16 4 = 3#4) ∧
    (s.status.cause = .prnRowRange → w.extractLsb' 16 4 = 4#4) ∧
    (s.status.cause = .prnKprime → w.extractLsb' 16 4 = 5#4) ∧
    (s.status.cause = .fiCount → w.extractLsb' 16 4 = 6#4) ∧
    (s.status.cause = .fiDuplicate → w.extractLsb' 16 4 = 7#4) ∧
    (s.status.cause = .fiGolden → w.extractLsb' 16 4 = 8#4) ∧
    (s.status.cause = .fiArray → w.extractLsb' 16 4 = 9#4) ∧
    (s.status.cause = .fiRoundtrip → w.extractLsb' 16 4 = 10#4) ∧
    (w.extractLsb' 16 4).toNat ≤ 10

/-- R22, R23, R32, R33 (10_state.md) and the read half of R69 (20_memory.md): CMD, FAULT_INFO, the reserved and the unmapped
offsets. -/
def Obligations.RegisterBlockReads : Prop :=
  ∀ (s : State) (a : Addr), a.toNat % 4 = 0 →
    (a.toNat = 0x0000 → readWord s a = .ok 0x00000000#32) ∧
    (a.toNat = 0x0008 → readWord s a = .ok s.faultInfo) ∧
    (a.toNat = 0x000C → readWord s a = .ok 0x00000000#32) ∧
    (0x002C ≤ a.toNat ∧ a.toNat < 0x0100 → readWord s a = .ok 0x00000000#32) ∧
    (0x0100 ≤ a.toNat ∧ a.toNat < 0x2000 → readWord s a = .ok 0x00000000#32) ∧
    (0xA000 ≤ a.toNat → readWord s a = .ok 0x00000000#32)

/-- R34 (10_state.md): the seven constant registers view MODE_CONST[ACTIVE_MODE] while VALID = 1 and read 0 while VALID = 0. -/
def Obligations.ConstantRegistersViewTheRom : Prop :=
  (∀ (s : State) (m : Mode), s.status.valid = true → s.status.activeMode.toNat = m.number →
    readWord s 0x0010#16 = .ok (zext32 (s.rom.mode m).consts.symbolsPerFrame) ∧
    readWord s 0x0014#16 = .ok (zext32 (s.rom.mode m).consts.numCarriers) ∧
    readWord s 0x0018#16 = .ok (zext32 (s.rom.mode m).consts.frameLength) ∧
    readWord s 0x001C#16 = .ok (zext32 (s.rom.mode m).consts.nsLength) ∧
    readWord s 0x0020#16 = .ok (zext32 (s.rom.mode m).consts.symbolLength) ∧
    readWord s 0x0024#16 = .ok (zext32 (s.rom.mode m).consts.fftLength) ∧
    readWord s 0x0028#16 = .ok (zext32 (s.rom.mode m).consts.cpLength)) ∧
  (∀ (s : State) (a : Addr), s.status.valid = false → a.toNat % 4 = 0 → 0x0010 ≤ a.toNat → a.toNat ≤ 0x0028 →
    readWord s a = .ok 0x00000000#32)

/-- R67 (20_memory.md): a window entry reads its formatted RAM entry while VALID = 1 and j < K, and 0 otherwise. -/
def Obligations.WindowsReadTheirRams : Prop :=
  (∀ (s : State) (m : Mode) (j : Nat), j < 2048 → s.status.valid = true →
    modeOfField s.status.activeMode = some m → j < (s.rom.mode m).consts.numCarriers.toNat →
    (∀ v, ramRead s.mem.prn j = some v → readWord s (BitVec.ofNat 16 (0x2000 + 4 * j)) = .ok (formatPrn v)) ∧
    (∀ v, ramRead s.mem.fis j = some v → readWord s (BitVec.ofNat 16 (0x4000 + 4 * j)) = .ok (formatFis v)) ∧
    (∀ v, ramRead s.mem.ilv j = some v → readWord s (BitVec.ofNat 16 (0x6000 + 4 * j)) = .ok (formatIlv v)) ∧
    (∀ v, ramRead s.mem.dil j = some v → readWord s (BitVec.ofNat 16 (0x8000 + 4 * j)) = .ok (formatDil v))) ∧
  (∀ (s : State) (m : Mode) (base j : Nat),
    base = 0x2000 ∨ base = 0x4000 ∨ base = 0x6000 ∨ base = 0x8000 → j < 2048 →
    (s.status.valid = false ∨
      (modeOfField s.status.activeMode = some m ∧ (s.rom.mode m).consts.numCarriers.toNat ≤ j)) →
    readWord s (BitVec.ofNat 16 (base + 4 * j)) = .ok 0x00000000#32)

/-- R78 (20_memory.md): the four PRN words, and that no other word appears at a PRN entry below K while VALID = 1. -/
def Obligations.PrnWindowShowsOnlyTheFourUnitWords : Prop :=
  (formatPrn 0#2 = 0x00000100#32 ∧ formatPrn 1#2 = 0x00010001#32 ∧ formatPrn 2#2 = 0x0000FF02#32 ∧
    formatPrn 3#2 = 0x00FF0003#32) ∧
  (∀ (s : State) (m : Mode) (j : Nat), s.Inv → s.status.valid = true → modeOfField s.status.activeMode = some m →
    j < (s.rom.mode m).consts.numCarriers.toNat →
    ∃ w, readWord s (BitVec.ofNat 16 (0x2000 + 4 * j)) = .ok w ∧
      (w = 0x00000100#32 ∨ w = 0x00010001#32 ∨ w = 0x0000FF02#32 ∨ w = 0x00FF0003#32))

/-- R79 (20_memory.md): the FIS word is the sign-extended entry. -/
def Obligations.FisWordIsTheSignedEntry : Prop :=
  (∀ v : BitVec 12, (formatFis v).toInt = v.toInt) ∧
  formatFis (BitVec.ofInt 12 (-513)) = 0xFFFFFDFF#32 ∧ formatFis (BitVec.ofInt 12 329) = 0x00000149#32

/-- R80 (20_memory.md): ILV and DIL words are the zero-extended entries, and while VALID = 1 indices in [0, K). -/
def Obligations.IndexWindowsShowIndicesBelowK : Prop :=
  (∀ v : BitVec 11, (formatIlv v).toNat = v.toNat ∧ (formatDil v).toNat = v.toNat) ∧
  (∀ (s : State) (m : Mode) (j : Nat), s.Inv → s.status.valid = true → modeOfField s.status.activeMode = some m →
    j < (s.rom.mode m).consts.numCarriers.toNat →
    ∃ v w, readWord s (BitVec.ofNat 16 (0x6000 + 4 * j)) = .ok v ∧
      readWord s (BitVec.ofNat 16 (0x8000 + 4 * j)) = .ok w ∧
      v.toNat < (s.rom.mode m).consts.numCarriers.toNat ∧ w.toNat < (s.rom.mode m).consts.numCarriers.toNat)

/-- R47 (10_state.md): while VALID = 0 no read can tell one RAM content from another; entries at j >= K are never observable
(R35). -/
def Obligations.HiddenRamContentsAreUnobservable : Prop :=
  (∀ (s : State) (mem : Memory) (a : Addr), s.status.valid = false →
    readWord { s with mem := mem } a = readWord s a) ∧
  (∀ (s : State) (mem : Memory) (m : Mode) (a : Addr), modeOfField s.status.activeMode = some m →
    (∀ j, j < (s.rom.mode m).consts.numCarriers.toNat →
      ramRead mem.prn j = ramRead s.mem.prn j ∧ ramRead mem.fis j = ramRead s.mem.fis j ∧
      ramRead mem.ilv j = ramRead s.mem.ilv j ∧ ramRead mem.dil j = ramRead s.mem.dil j) →
    readWord { s with mem := mem } a = readWord s a)

/-! ## Commands -/

/-- R112 (40_commands.md): NOP changes no state; its one word is 0; a word with OP = 0x00 and any other bit set is illegal; while
BUSY = 1 it is dropped and sets OVERRUN. -/
def Obligations.NopChangesNothing : Prop :=
  (∀ s : State, exec .nop s = .next s) ∧
  decode 0x00000000#32 = .command .nop ∧
  (∀ w : Word, opField w = 0x00#8 → w ≠ 0x00000000#32 → ∃ why, decode w = .illegal why) ∧
  (∀ (s : State) (rest : List Event), s.agenda = .host (.write 0x0000#16 0x00000000#32) :: rest →
    s.status.busy = true →
    step s = .next
      { s with
        agenda := rest
        resp := some (.write .okay)
        status := { s.status with overrun := true } })

/-- R122 (40_commands.md): CLEAR_FAULT clears FAULT, CAUSE, FAULT_INFO and OVERRUN, and changes nothing else. -/
def Obligations.ClearFaultClearsTheRecord : Prop :=
  decode 0x03000000#32 = .command .clearFault ∧
  ∀ s : State, exec .clearFault s = .next
    { s with
      status := { s.status with fault := false, cause := .noFault, overrun := false }
      faultInfo := 0x00000000#32 }

/-- R114 (40_commands.md): SELFTEST acceptance. It clears the fault record, sets BUSY, starts the engine with a drawn latency and
leaves ROM_OK, VALID and everything else. The drawn value is a free value (log entry 3): the statement holds for every value
of the draw counter. -/
def Obligations.SelftestAcceptance : Prop :=
  ∀ s : State, ∃ lat : Nat, 0 < lat ∧ exec .selftest s = .next
    { s with
      status := { s.status with fault := false, cause := .noFault, busy := true }
      faultInfo := 0x00000000#32
      eng := { s.eng with op := .selftest, left := lat - 1 }
      draws := s.draws + 1 }

/-- R115 (40_commands.md): the check passes exactly when both identities hold for every mode; otherwise it reports CONST_TABLE for
the first failing mode, with info m for the frame-length identity and 0x100 + m for the symbol-length identity. -/
def Obligations.ConstCheckReportsTheFirstFailingIdentity : Prop :=
  ∀ rom : Rom,
    (constCheck rom = none ↔ ∀ m, frameIdentity (rom.mode m).consts ∧ symbolIdentity (rom.mode m).consts) ∧
    (∀ m : Mode,
      (∀ m' : Mode, m'.number < m.number →
        frameIdentity (rom.mode m').consts ∧ symbolIdentity (rom.mode m').consts) →
      (¬frameIdentity (rom.mode m).consts → ∃ r, constCheck rom = some r ∧ r.cause = .constTable ∧
        r.info.toNat = m.number) ∧
      (frameIdentity (rom.mode m).consts → ¬symbolIdentity (rom.mode m).consts →
        ∃ r, constCheck rom = some r ∧ r.cause = .constTable ∧ r.info.toNat = 0x100 + m.number))

/-- R116 (40_commands.md): the engine step at which ENG.OP = SELFTEST and ENG.LEFT = 0. The step is the engine's turn, with host
moves still to come or with the agenda exhausted; that an exhausted agenda gives the engine its turn is the model's choice (log
entry 2). -/
def Obligations.SelftestCompletion : Prop :=
  ∀ s : State, completes .selftest s → s.rom.admitted = true →
    (constCheck s.rom = none → step s = .next
      { s with
        agenda := s.agenda.tail
        status := { s.status with romOk := true, busy := false }
        eng := { s.eng with op := .idle } }) ∧
    (∀ r, constCheck s.rom = some r → step s = .next
      { s with
        agenda := s.agenda.tail
        status :=
          { s.status with
            romOk := false, fault := true, cause := r.cause, valid := false, activeMode := 0#3, busy := false }
        faultInfo := r.info
        eng := { s.eng with op := .idle } })

/-- R118, with R119 and R211 (40_commands.md, 60_exceptions.md): DERIVE acceptance. The mode is checked before ROM_OK; the snapshot
stops being readable whatever the outcome; only an accepted DERIVE sets BUSY. The drawn latency is a free value (log entry
3). That the RAM contents stay on the two faults is the model's choice (log entry 4): decision D38 leaves them unspecified. -/
def Obligations.DeriveAcceptance : Prop :=
  ∀ (s : State) (f : BitVec 3),
    (¬(1 ≤ f.toNat ∧ f.toNat ≤ 4) → exec (.derive f) s = .next
      { s with
        status :=
          { s.status with fault := true, cause := .invalidMode, valid := false, activeMode := 0#3, busy := false }
        faultInfo := zext32 f
        eng := { s.eng with op := .idle } }) ∧
    (1 ≤ f.toNat ∧ f.toNat ≤ 4 → s.status.romOk = false → exec (.derive f) s = .next
      { s with
        status :=
          { s.status with fault := true, cause := .constTable, valid := false, activeMode := 0#3, busy := false }
        faultInfo := 0x00000000#32
        eng := { s.eng with op := .idle } }) ∧
    (1 ≤ f.toNat ∧ f.toNat ≤ 4 → s.status.romOk = true → ∃ lat : Nat, 0 < lat ∧ exec (.derive f) s = .next
      { s with
        status :=
          { s.status with fault := false, cause := .noFault, valid := false, activeMode := 0#3, busy := true }
        faultInfo := 0x00000000#32
        eng := { op := .derive, mode := f, left := lat - 1 }
        draws := s.draws + 1 })

/-- R121 and R120 (40_commands.md), success: a derivation is the PRN stage's codes with the FI stage's three sequences; the engine
step at which ENG.OP = DERIVE and ENG.LEFT = 0 writes entry j of each RAM for j < K, leaves the entries from K on, and sets VALID,
ACTIVE_MODE, BUSY and ENG.OP, all in one step. The step is the engine's turn, with host moves still to come or with the agenda
exhausted; that an exhausted agenda gives the engine its turn is the model's choice (log entry 2). -/
def Obligations.DeriveCompletionCommitsTheSnapshot : Prop :=
  (∀ (rom : Rom) (m : Mode) (out : List PhaseCode) (f : FiResult), prnStage rom m = .ok out →
    fiStage rom m = .ok f → derivation rom m = .ok ⟨out, f.fis, f.ilv, f.dil⟩) ∧
  (∀ (s : State) (m : Mode) (p : Snapshot), completes .derive s → s.rom.admitted = true →
    s.eng.mode.toNat = m.number → derivation s.rom m = .ok p →
    ∃ mem, step s = .next
      { s with
        agenda := s.agenda.tail
        mem := mem
        status := { s.status with valid := true, activeMode := s.eng.mode, busy := false }
        eng := { s.eng with op := .idle } } ∧
    (∀ j, j < (s.rom.mode m).consts.numCarriers.toNat →
      ramRead mem.prn j = p.prn[j]? ∧ ramRead mem.fis j = (p.fis[j]?).map (trunc 12) ∧
      ramRead mem.ilv j = (p.ilv[j]?).map (BitVec.ofNat 11) ∧
      ramRead mem.dil j = (p.dil[j]?).map (BitVec.ofNat 11)) ∧
    (∀ j, (s.rom.mode m).consts.numCarriers.toNat ≤ j →
      ramRead mem.prn j = ramRead s.mem.prn j ∧ ramRead mem.fis j = ramRead s.mem.fis j ∧
      ramRead mem.ilv j = ramRead s.mem.ilv j ∧ ramRead mem.dil j = ramRead s.mem.dil j))

/-- R121, R120 and R215, R218 (40_commands.md, 60_exceptions.md), failure: a fault of the PRN stage is the derivation's, whatever
the FI stage would raise, and one of the FI stage is it when the PRN stage succeeds; a derivation that raises leaves exactly the fault
record, an idle engine and no snapshot. Nothing is claimed of the RAM contents, which R120 leaves unspecified. The step is the
engine's turn, with host moves still to come or with the agenda exhausted; that an exhausted agenda gives the engine its turn is
the model's choice (log entry 2). -/
def Obligations.FaultingDeriveLeavesNoSnapshot : Prop :=
  (∀ (rom : Rom) (m : Mode) (r : Raise), prnStage rom m = .error r → derivation rom m = .error r) ∧
  (∀ (rom : Rom) (m : Mode) (out : List PhaseCode) (r : Raise), prnStage rom m = .ok out →
    fiStage rom m = .error r → derivation rom m = .error r) ∧
  (∀ (s : State) (m : Mode) (r : Raise), completes .derive s → s.rom.admitted = true →
    s.eng.mode.toNat = m.number → derivation s.rom m = .error r →
    ∃ mem, step s = .next
      { s with
        agenda := s.agenda.tail
        mem := mem
        status :=
          { s.status with fault := true, cause := r.cause, valid := false, activeMode := 0#3, busy := false }
        faultInfo := r.info
        eng := { s.eng with op := .idle } })

/-- R215 (60_exceptions.md) at the CMD port: an illegal word written while BUSY = 0 overwrites the fault record, clears VALID,
ACTIVE_MODE and BUSY and idles the engine; OVERRUN, ROM_OK, the RAMs and the ROMs are unchanged. -/
def Obligations.IllegalCommandTakesTheFault : Prop :=
  ∀ (s : State) (w : Word) (why : IllegalWord) (rest : List Event), decode w = .illegal why →
    s.status.busy = false → s.agenda = .host (.write 0x0000#16 w) :: rest →
    step s = .next
      { s with
        agenda := rest
        resp := some (.write .okay)
        status :=
          { s.status with fault := true, cause := .illegalCmd, valid := false, activeMode := 0#3, busy := false }
        faultInfo := w
        eng := { s.eng with op := .idle } }

/-- The frame of the four commands: each answers a next state for every state and operand, and leaves every RAM entry, the ROMs, the
host's transactions and ROM_OK as they were; OVERRUN is cleared by CLEAR_FAULT alone, ENG.MODE written by DERIVE alone (40_commands.md
R112, R114, R118, R122; 10_state.md R45). That a DERIVE that faults at acceptance keeps the RAM entries is the model's choice (log
entry 4). -/
def Obligations.CommandsChangeOnlyTheirOwnState : Prop :=
  ∀ (i : Instr) (s : State), ∃ t, exec i s = .next t ∧
    (∀ j, ramRead t.mem.prn j = ramRead s.mem.prn j ∧ ramRead t.mem.fis j = ramRead s.mem.fis j ∧
      ramRead t.mem.ilv j = ramRead s.mem.ilv j ∧ ramRead t.mem.dil j = ramRead s.mem.dil j) ∧
    t.rom = s.rom ∧ t.agenda = s.agenda ∧ t.resp = s.resp ∧ t.status.romOk = s.status.romOk ∧
    (i ≠ .clearFault → t.status.overrun = s.status.overrun) ∧
    ((∀ f, i ≠ .derive f) → t.eng.mode = s.eng.mode ∧ t.status.valid = s.status.valid ∧
      t.status.activeMode = s.status.activeMode) ∧
    (i = .nop ∨ i = .clearFault → t.eng = s.eng ∧ t.status.busy = s.status.busy ∧ t.draws = s.draws)

/-! ## The PRN stage -/

/-- R141 (41_prn_generator.md): the carriers are visited in ascending order from -K/2 to K/2 without 0, carrier k at j = k + K/2 for
k < 0 and at j = k + K/2 - 1 for k > 0. -/
def Obligations.CarriersAreVisitedInAscendingOrder : Prop :=
  ∀ K : Nat, K % 64 = 0 →
    (carrierOrder K).length = K ∧ (carrierOrder K).Pairwise (· < ·) ∧
    (∀ k : Int, k ∈ carrierOrder K ↔ k ≠ 0 ∧ -((K : Int) / 2) ≤ k ∧ k ≤ (K : Int) / 2) ∧
    (∀ (j : Nat) (k : Int), (carrierOrder K)[j]? = some k →
      (j : Int) = if k < 0 then k + (K : Int) / 2 else k + (K : Int) / 2 - 1)

/-- R142, R143, R144 (41_prn_generator.md): the row index, the anchor and the column of every carrier, and their ranges. -/
def Obligations.RowsAnchorsAndColumnsOfCarriers : Prop :=
  ∀ (K : Nat) (k : Int), K % 64 = 0 → k ∈ carrierOrder K →
    (k < 0 → rowIndex K k = (k + (K : Int) / 2).fdiv 32 ∧ anchor k = 32 * k.fdiv 32 ∧
      0 ≤ rowIndex K k ∧ rowIndex K k ≤ (K : Int) / 64 - 1) ∧
    (0 < k → rowIndex K k = (k + (K : Int) / 2 - 1).fdiv 32 ∧ anchor k = 32 * (k - 1).fdiv 32 + 1 ∧
      (K : Int) / 64 ≤ rowIndex K k ∧ rowIndex K k ≤ (K : Int) / 32 - 1) ∧
    (phaseColumn k : Int) = k - anchor k ∧ phaseColumn k < 32

/-- R147, with R144 and R149 (41_prn_generator.md): a successful stage returns K codes, and the code of the j-th carrier is
(PHASE_H[i][(k - k') mod 32] + n) mod 4 of the row PRN_ROWS[m][idx], which passes both checks. -/
def Obligations.PrnStageComputesEveryCarriersCode : Prop :=
  ∀ (rom : Rom) (m : Mode) (out : List PhaseCode), rom.admitted = true → prnStage rom m = .ok out →
    out.length = (rom.mode m).consts.numCarriers.toNat ∧
    ∀ (j : Nat) (k : Int), (carrierOrder (rom.mode m).consts.numCarriers.toNat)[j]? = some k →
      ∃ row codes h phi, (rom.mode m).prnRows[(rowIndex (rom.mode m).consts.numCarriers.toNat k).toNat]? = some row ∧
        row.kMin.toInt ≤ k ∧ k ≤ row.kMax.toInt ∧ anchor k = row.kAnchor.toInt ∧
        rom.phaseH[row.i.toNat]? = some codes ∧ codes[((k - anchor k) % 32).toNat]? = some h ∧
        out[j]? = some phi ∧ phi.toNat = (h.toNat + row.n.toNat) % 4

/-- R145 (41_prn_generator.md): the stage stops at the first carrier that fails a check, the range check before the anchor check, with
the carrier in two's complement as info. -/
def Obligations.PrnStageStopsAtTheFirstFailingCarrier : Prop :=
  ∀ (rom : Rom) (m : Mode) (j : Nat) (k : Int) (row : PrnRow), rom.admitted = true →
    (carrierOrder (rom.mode m).consts.numCarriers.toNat)[j]? = some k →
    (rom.mode m).prnRows[(rowIndex (rom.mode m).consts.numCarriers.toNat k).toNat]? = some row →
    (∀ (j' : Nat) (k' : Int) (row' : PrnRow), j' < j →
      (carrierOrder (rom.mode m).consts.numCarriers.toNat)[j']? = some k' →
      (rom.mode m).prnRows[(rowIndex (rom.mode m).consts.numCarriers.toNat k').toNat]? = some row' →
      row'.kMin.toInt ≤ k' ∧ k' ≤ row'.kMax.toInt ∧ anchor k' = row'.kAnchor.toInt) →
    (¬(row.kMin.toInt ≤ k ∧ k ≤ row.kMax.toInt) →
      prnStage rom m = .error ⟨.prnRowRange, BitVec.ofInt 32 k⟩) ∧
    (row.kMin.toInt ≤ k ∧ k ≤ row.kMax.toInt → anchor k ≠ row.kAnchor.toInt →
      prnStage rom m = .error ⟨.prnKprime, BitVec.ofInt 32 k⟩)

/-- R146 (41_prn_generator.md): row r receives exactly the carriers kps_r to kps_r + 31, and the stage passes every check if and
only if every row r stores the anchor kps_r and bounds that take in kps_r to kps_r + 31. -/
def Obligations.PrnStagePassesExactlyTheStructuredRoms : Prop :=
  ∀ (rom : Rom) (m : Mode) (K : Nat), rom.admitted = true → K = (rom.mode m).consts.numCarriers.toNat →
    (∀ (r : Nat) (k : Int), r < K / 32 →
      ((k ∈ carrierOrder K ∧ rowIndex K k = r) ↔ rowAnchor K r ≤ k ∧ k ≤ rowAnchor K r + 31)) ∧
    ((∃ out, prnStage rom m = .ok out) ↔
      ∀ (r : Nat) (row : PrnRow), (rom.mode m).prnRows[r]? = some row →
        row.kAnchor.toInt = rowAnchor K r ∧ row.kMin.toInt ≤ rowAnchor K r ∧
        rowAnchor K r + 31 ≤ row.kMax.toInt)

/-- R151 (41_prn_generator.md): carriers -1 and 1 resolve to rows K/64 - 1 and K/64; for K = 1536 rows 23 and 24 with anchors -32 and
1. -/
def Obligations.BoundaryCarriersUseDistinctRows : Prop :=
  (∀ K : Nat, K % 64 = 0 → 0 < K → rowIndex K (-1) = (K : Int) / 64 - 1 ∧ rowIndex K 1 = (K : Int) / 64) ∧
  rowIndex 1536 (-1) = 23 ∧ rowIndex 1536 1 = 24 ∧ anchor (-1) = -32 ∧ anchor 1 = 1

/-! ## The frequency-interleaving stage -/

/-- R171 (42_frequency_interleaver.md): the recurrence generates N values in [0, N), A[0] = 0 and A[i+1] = (13*A[i] + a) mod N with
a = N/4 - 1. -/
def Obligations.RecurrenceGeneratesTheValues : Prop :=
  ∀ N : Nat, 8 ≤ N →
    (lcrValues N).length = N ∧ (lcrValues N)[0]? = some 0 ∧
    (∀ x ∈ lcrValues N, x < N) ∧
    (∀ (i x : Nat), i + 1 < N → (lcrValues N)[i]? = some x →
      ∃ y, (lcrValues N)[i + 1]? = some y ∧ (y : Int) = (13 * (x : Int) + ((N : Int) / 4 - 1)) % N)

/-- R175 (42_frequency_interleaver.md): every survivor lies in [-3N/8, 3N/8] and is not 0. -/
def Obligations.SurvivorsLieInTheBand : Prop :=
  ∀ N : Nat, N % 8 = 0 → ∀ v ∈ survivors N, -(3 * (N : Int) / 8) ≤ v ∧ v ≤ 3 * (N : Int) / 8 ∧ v ≠ 0

/-- R182 and R185 (42_frequency_interleaver.md): the recurrence values A[1..13] and the golden prefix for N = 2048, the prefixes for
N = 512, 256 and 1024; they are GOLDEN[1..4] of the built ROMs; with G_m = 0 the golden check raises nothing. That the
built ROMs hold the defaults of R185 as GOLDEN[2..4], and not the G_m = 0 it also allows, is the model's choice (log entry 1). -/
def Obligations.GoldenPrefixesAreReproduced : Prop :=
  ((lcrValues 2048).drop 1).take 13 = [511, 1010, 1353, 1716, 291, 198, 1037, 1704, 135, 218, 1297, 988, 1067] ∧
  (survivors 2048).take 10 = [-513, -14, 329, 692, -733, 13, 680, 273, -36, 43] ∧
  (survivors 512).take 10 = [-129, -14, -55, -76, 163, 141, -88, 7, -111, -85] ∧
  (survivors 256).take 10 = [-65, -14, 52, -29, -58, 77, 40, 71, -38, 81] ∧
  (survivors 1024).take 10 = [-257, -14, 73, 180, 198, -243, 168, 218, 17, 299] ∧
  (Config.rom.mode .I).golden = (survivors 2048).take 10 ∧ (Config.rom.mode .II).golden = (survivors 512).take 10 ∧
  (Config.rom.mode .III).golden = (survivors 256).take 10 ∧ (Config.rom.mode .IV).golden = (survivors 1024).take 10 ∧
  (∀ S : List Int, goldenCheck [] S = none)

/-- R177 (42_frequency_interleaver.md): for N in {256, 512, 1024, 2048} every value of [0, N) occurs exactly once and exactly 3N/4 values
survive; the count check passes exactly when K = 3N/4, and the duplicate check never fails after it. -/
def Obligations.RecurrenceHasFullPeriod : Prop :=
  ∀ N : Nat, N = 256 ∨ N = 512 ∨ N = 1024 ∨ N = 2048 →
    (lcrValues N).length = N ∧ (lcrValues N).Nodup ∧ (∀ d, d < N → d ∈ lcrValues N) ∧
    (survivors N).length = 3 * N / 4 ∧ (survivors N).Nodup ∧
    (∀ K : Nat, countCheck K (survivors N) = none ↔ 4 * K = 3 * N) ∧
    duplicateCheck (3 * N / 4) (survivors N) = none

/-- R180, R181, R184, in the order of R190 (42_frequency_interleaver.md): the count check, then the duplicate check, then the golden
check, each with its info word and at its smallest index. -/
def Obligations.FiStageReportsTheFirstFailingCheck : Prop :=
  ∀ (rom : Rom) (m : Mode) (S : List Int) (K : Nat), rom.admitted = true →
    S = survivors (rom.mode m).consts.fftLength.toNat → K = (rom.mode m).consts.numCarriers.toNat →
    (S.length ≠ K → fiStage rom m = .error ⟨.fiCount, BitVec.ofNat 32 S.length⟩) ∧
    (S.length = K → ∀ (j : Nat) (v : Int), S[j]? = some v → v ∈ S.take j → (S.take j).Nodup →
      fiStage rom m = .error ⟨.fiDuplicate, BitVec.ofInt 32 v⟩) ∧
    (S.length = K → S.Nodup → ∀ j, j < (rom.mode m).golden.length → S[j]? ≠ (rom.mode m).golden[j]? →
      (∀ i, i < j → S[i]? = (rom.mode m).golden[i]?) →
      fiStage rom m = .error ⟨.fiGolden, BitVec.ofNat 32 j⟩)

/-- R187 (42_frequency_interleaver.md): when K = 3N/4 and the count and duplicate checks pass, the array check cannot fail. -/
def Obligations.ArrayCheckPassesAtThreeQuarters : Prop :=
  ∀ (N K : Nat), N % 8 = 0 → 4 * K = 3 * N → countCheck K (survivors N) = none →
    duplicateCheck K (survivors N) = none → arrayCheck K (arrayForm K (survivors N)) = none

/-- R188 and R189 (42_frequency_interleaver.md): once the array check passes, every DIL entry is written and the round-trip check
cannot fail. -/
def Obligations.RoundTripCheckCannotFail : Prop :=
  ∀ (K : Nat) (S : List Int), S.length = K → arrayCheck K (arrayForm K S) = none →
    (∀ u v : Nat, ((arrayForm K S).map Int.toNat)[u]? = some v →
      (inverseOf K ((arrayForm K S).map Int.toNat))[v]? = some u) ∧
    roundtripCheck K ((arrayForm K S).map Int.toNat) (inverseOf K ((arrayForm K S).map Int.toNat)) = none

/-- R186 (42_frequency_interleaver.md): the array form is the same map from a carrier to a position as the PRN stage's (R141). -/
def Obligations.ArrayFormIsTheCarrierPosition : Prop :=
  ∀ (K : Nat) (v : Int), K % 64 = 0 → v ≠ 0 → -((K : Int) / 2) ≤ v → v ≤ (K : Int) / 2 →
    0 ≤ arrayIndex K v ∧ (carrierOrder K)[(arrayIndex K v).toNat]? = some v

/-- R191 (42_frequency_interleaver.md): while VALID = 1, ILV_RAM and DIL_RAM are inverse permutations of [0, K). -/
def Obligations.InterleavingWindowsAreInversePermutations : Prop :=
  ∀ (s : State) (m : Mode), s.Inv → s.status.valid = true → modeOfField s.status.activeMode = some m →
    ∀ j, j < (s.rom.mode m).consts.numCarriers.toNat →
      (∃ a : BitVec 11, a.toNat < (s.rom.mode m).consts.numCarriers.toNat ∧ ramRead s.mem.ilv j = some a ∧
        ramRead s.mem.dil a.toNat = some (BitVec.ofNat 11 j)) ∧
      (∃ b : BitVec 11, b.toNat < (s.rom.mode m).consts.numCarriers.toNat ∧ ramRead s.mem.dil j = some b ∧
        ramRead s.mem.ilv b.toNat = some (BitVec.ofNat 11 j))

/-- R35, R36, R37 (10_state.md), R120, R121, R148, R176, R186 (40_commands.md, 41_prn_generator.md, 42_frequency_interleaver.md): while
VALID = 1, PRN_RAM[j] is element j of the PRN stage's result, FIS_RAM[j] is S[j] exactly (trunc_12 loses nothing) and ILV_RAM[j] is
S[j] + K/2 - (1 if S[j] > 0). -/
def Obligations.FisRamHoldsTheSurvivorSequence : Prop :=
  ∀ (s : State) (m : Mode), s.Inv → s.status.valid = true → modeOfField s.status.activeMode = some m →
    ∃ out, prnStage s.rom m = .ok out ∧ out.length = (s.rom.mode m).consts.numCarriers.toNat ∧
    ∀ j, j < (s.rom.mode m).consts.numCarriers.toNat →
      ramRead s.mem.prn j = out[j]? ∧
      ∃ (b : BitVec 12) (c : BitVec 11), ramRead s.mem.fis j = some b ∧ ramRead s.mem.ilv j = some c ∧
        (survivors (s.rom.mode m).consts.fftLength.toNat)[j]? = some b.toInt ∧
        (c.toNat : Int) =
          b.toInt + ((s.rom.mode m).consts.numCarriers.toNat : Int) / 2 - (if 0 < b.toInt then 1 else 0)

/-! ## The whole machine -/

/-- Every step keeps the invariant: BUSY with ENG.OP (R44), VALID with ACTIVE_MODE (R30) and with a complete snapshot of that mode's
derivation (R26, R39), FAULT with CAUSE and FAULT_INFO (R31, R33), ROM_OK with a ROM that passes (R29), the RAMs in canonical form. -/
def Obligations.EveryStepKeepsTheInvariant : Prop :=
  ∀ s t : State, s.Inv → step s = .next t → t.Inv

/-- The state after reset meets the invariant, for every ROM set, latency draw and list of moves to come. -/
def Obligations.ResetMeetsTheInvariant : Prop :=
  (∀ (rom : Rom) (d : Nat) (ag : List Event), (State.afterReset rom d ag).Inv) ∧ State.reset.Inv

/-- In the states of the invariant no step faults, and the one refusal is of an engine completion over a ROM set that breaks R48. -/
def Obligations.InvariantStatesNeverFault : Prop :=
  ∀ s : State, s.Inv →
    (∃ t, step s = .next t) ∨
    (step s = .refused .romNotAdmitted ∧ s.rom.admitted = false ∧ s.eng.op ≠ .idle ∧ s.eng.left = 0 ∧
      (s.agenda = [] ∨ ∃ rest, s.agenda = .engine :: rest))

/-- R46, R240, R241 (10_state.md, 70_reset_and_hazards.md): releasing reset gives every state element its reset value in one step,
starts the self-test and leaves the ROMs; every constant register and window entry then reads 0. The spec leaves ENG.MODE and the
RAM contents unspecified, and nothing is claimed of them; the latency is a free value (log entry 3). -/
def Obligations.ResetGivesTheSpecifiedValues : Prop :=
  ∀ (s : State) (rest : List Event), s.agenda = .reset :: rest →
    ∃ t, step s = .next t ∧ statusWord t.status = 0x00000001#32 ∧ t.faultInfo = 0x00000000#32 ∧
      t.eng.op = .selftest ∧ (∃ lat, 0 < lat ∧ t.eng.left = lat - 1) ∧ t.rom = s.rom ∧ t.agenda = rest ∧
      (∀ a : Addr, a.toNat % 4 = 0 → 0x0010 ≤ a.toNat → readWord t a = .ok 0x00000000#32)

/-- R75 and R240 (20_memory.md, 70_reset_and_hazards.md): no transaction, engine step or reset changes the ROMs. -/
def Obligations.RomsNeverChange : Prop :=
  ∀ (n : Nat) (s t : State), runMoves n s = .next t → t.rom = s.rom

/-- R45 (10_state.md): the writers of the five flags, over every step of every state: no flag is set or cleared by anything the table
does not list. -/
def Obligations.FlagsAreWrittenOnlyAsListed : Prop :=
  ∀ s t : State, step s = .next t →
    (s.status.busy = false → t.status.busy = true → resets s ∨ accepts .selftest s ∨ ∃ f, accepts (.derive f) s) ∧
    (s.status.busy = true → t.status.busy = false → completes .selftest s ∨ completes .derive s) ∧
    (s.status.valid = false → t.status.valid = true →
      completes .derive s ∧ ∃ m p, modeOfField t.status.activeMode = some m ∧ derivation s.rom m = .ok p) ∧
    (s.status.valid = true → t.status.valid = false →
      resets s ∨ (∃ f, accepts (.derive f) s) ∨ t.status.fault = true) ∧
    (s.status.fault = false → t.status.fault = true →
      acceptsIllegal s ∨ (∃ f, accepts (.derive f) s) ∨ completes .selftest s ∨ completes .derive s) ∧
    (s.status.fault = true → t.status.fault = false →
      resets s ∨ accepts .selftest s ∨ (∃ f, accepts (.derive f) s) ∨ accepts .clearFault s) ∧
    (s.status.overrun = false → t.status.overrun = true →
      s.status.busy = true ∧ ∃ w rest, s.agenda = .host (.write 0x0000#16 w) :: rest) ∧
    (s.status.overrun = true → t.status.overrun = false → resets s ∨ accepts .clearFault s) ∧
    (s.status.romOk = false → t.status.romOk = true → completes .selftest s ∧ constCheck s.rom = none) ∧
    (s.status.romOk = true → t.status.romOk = false →
      resets s ∨ (completes .selftest s ∧ constCheck s.rom ≠ none))

/-- R28 (10_state.md), "It never affects any other state": two states that differ only in OVERRUN step to states that differ only in
OVERRUN and in what the port answered. -/
def Obligations.OverrunNeverAffectsOtherState : Prop :=
  ∀ (s t : State) (b : Bool), step s = .next t →
    ∃ (t' : State) (c : Bool) (r : Option Response),
      step { s with status := { s.status with overrun := b } } = .next t' ∧
      t' = { t with resp := r, status := { t.status with overrun := c } }

/-- R252 (70_reset_and_hazards.md): with no other move to come, a running command takes LEFT + 1 engine steps, the last its completion;
the steps before change nothing a host can see, and the completion's outcome does not depend on the drawn latency. -/
def Obligations.EngineCompletesAfterItsLatency : Prop :=
  ∀ s : State, s.agenda = [] → s.eng.op ≠ .idle →
    (∀ k, k ≤ s.eng.left → runMoves k s = .next { s with eng := { s.eng with left := s.eng.left - k } }) ∧
    runMoves (s.eng.left + 1) s = step { s with eng := { s.eng with left := 0 } }

/-- R254 (70_reset_and_hazards.md): a host that polls STATUS while the engine takes its turns reads BUSY = 0 once more than LEFT engine
turns have passed. The moves to come are STATUS reads and engine turns in any order. -/
def Obligations.PollingTerminates : Prop :=
  ∀ s : State, s.Inv → s.rom.admitted = true →
    (∀ e ∈ s.agenda, e = .engine ∨ e = .host (.read 0x0004#16)) →
    s.eng.left < engineTurns s.agenda →
    ∃ t, runMoves s.agenda.length s = .next t ∧ t.agenda = [] ∧ t.status.busy = false

/-- R117 to R120 (40_commands.md): a DERIVE m of a valid mode, issued to an idle engine with ROM_OK = 1 over an admitted ROM that
passes every check, ends with VALID = 1, ACTIVE_MODE = m, FAULT = 0, BUSY = 0 and the RAMs holding the derivation's result. The write
is the host's last move; that the exhausted agenda then gives the engine its turns is the model's choice (log entry 2). -/
def Obligations.DeriveRunsToItsSnapshot : Prop :=
  ∀ (s : State) (w : Word) (f : BitVec 3) (m : Mode) (p : Snapshot), decode w = .command (.derive f) →
    s.agenda = [.host (.write 0x0000#16 w)] → s.status.busy = false → s.status.romOk = true →
    s.rom.admitted = true → f.toNat = m.number → derivation s.rom m = .ok p →
    ∃ n t, runMoves n s = .next t ∧ t.status.valid = true ∧ t.status.activeMode = f ∧ t.status.fault = false ∧
      t.status.busy = false ∧ t.eng.op = .idle ∧ t.faultInfo = 0x00000000#32 ∧ holdsSnapshot t.mem p ∧
      readWord t 0x0014#16 = .ok (zext32 (s.rom.mode m).consts.numCarriers)

/-- R243 (70_reset_and_hazards.md): over ROMs whose constants fail the check no run ever shows a snapshot, and every DERIVE of a valid
mode is refused by the ROM gate. -/
def Obligations.BrokenConstantsNeverGiveASnapshot : Prop :=
  ∀ (n : Nat) (s t : State), s.Inv → constCheck s.rom ≠ none → runMoves n s = .next t →
    t.status.valid = false ∧ t.status.romOk = false ∧
    (∀ f : BitVec 3, 1 ≤ f.toNat ∧ f.toNat ≤ 4 → ∃ u, exec (.derive f) t = .next u ∧ u.status.fault = true ∧
      u.status.cause = .constTable ∧ u.faultInfo = 0x00000000#32 ∧ u.eng.op = .idle)

/-- R123 (40_commands.md): two completion steps of DERIVE of one mode over the same ROMs, from any two states with no fault recorded,
fault with the same cause and info or leave identical window contents. Each step is the engine's turn, with host moves still to come or
with the agenda exhausted; that an exhausted agenda gives the engine its turn is the model's choice (log entry 2). -/
def Obligations.DeriveIsDeterministic : Prop :=
  ∀ s s' t t' : State, completes .derive s → completes .derive s' → s.eng.mode = s'.eng.mode → s.rom = s'.rom →
    s.status.fault = false → s'.status.fault = false → step s = .next t → step s' = .next t' →
    t.status.fault = t'.status.fault ∧
    (t.status.fault = true → t.status.cause = t'.status.cause ∧ t.faultInfo = t'.faultInfo) ∧
    (∀ a : Addr, 0x2000 ≤ a.toNat → a.toNat < 0xA000 → readWord t a = readWord t' a)
end

