-- ==== Sys2Proof/Laws/State.lean ====
section
/-! SUPPORT. One lemma per field per named update of State, each true by rfl, so that no later proof unfolds a record
update. -/

namespace Sys2Proof.Machine

open Sys2Proof

variable (s : State)

/-! raiseFault (60_exceptions.md R215). -/

@[simp] theorem raiseFault_status_busy (r : Raise) : (raiseFault r s).status.busy = false := rfl
@[simp] theorem raiseFault_status_valid (r : Raise) : (raiseFault r s).status.valid = false := rfl
@[simp] theorem raiseFault_status_fault (r : Raise) : (raiseFault r s).status.fault = true := rfl
@[simp] theorem raiseFault_status_overrun (r : Raise) : (raiseFault r s).status.overrun = s.status.overrun := rfl
@[simp] theorem raiseFault_status_romOk (r : Raise) : (raiseFault r s).status.romOk = s.status.romOk := rfl
@[simp] theorem raiseFault_status_activeMode (r : Raise) : (raiseFault r s).status.activeMode = 0#3 := rfl
@[simp] theorem raiseFault_status_cause (r : Raise) : (raiseFault r s).status.cause = r.cause := rfl
@[simp] theorem raiseFault_faultInfo (r : Raise) : (raiseFault r s).faultInfo = r.info := rfl
@[simp] theorem raiseFault_mem (r : Raise) : (raiseFault r s).mem = s.mem := rfl
@[simp] theorem raiseFault_eng_op (r : Raise) : (raiseFault r s).eng.op = .idle := rfl
@[simp] theorem raiseFault_eng_mode (r : Raise) : (raiseFault r s).eng.mode = s.eng.mode := rfl
@[simp] theorem raiseFault_eng_left (r : Raise) : (raiseFault r s).eng.left = s.eng.left := rfl
@[simp] theorem raiseFault_rom (r : Raise) : (raiseFault r s).rom = s.rom := rfl
@[simp] theorem raiseFault_agenda (r : Raise) : (raiseFault r s).agenda = s.agenda := rfl
@[simp] theorem raiseFault_resp (r : Raise) : (raiseFault r s).resp = s.resp := rfl
@[simp] theorem raiseFault_draws (r : Raise) : (raiseFault r s).draws = s.draws := rfl

/-! clearFaultRecord (60_exceptions.md R220). -/

@[simp] theorem clearFaultRecord_status_busy : (clearFaultRecord s).status.busy = s.status.busy := rfl
@[simp] theorem clearFaultRecord_status_valid : (clearFaultRecord s).status.valid = s.status.valid := rfl
@[simp] theorem clearFaultRecord_status_fault : (clearFaultRecord s).status.fault = false := rfl
@[simp] theorem clearFaultRecord_status_overrun : (clearFaultRecord s).status.overrun = s.status.overrun := rfl
@[simp] theorem clearFaultRecord_status_romOk : (clearFaultRecord s).status.romOk = s.status.romOk := rfl
@[simp] theorem clearFaultRecord_status_activeMode : (clearFaultRecord s).status.activeMode = s.status.activeMode := rfl
@[simp] theorem clearFaultRecord_status_cause : (clearFaultRecord s).status.cause = .noFault := rfl
@[simp] theorem clearFaultRecord_faultInfo : (clearFaultRecord s).faultInfo = 0x00000000#32 := rfl
@[simp] theorem clearFaultRecord_mem : (clearFaultRecord s).mem = s.mem := rfl
@[simp] theorem clearFaultRecord_eng : (clearFaultRecord s).eng = s.eng := rfl
@[simp] theorem clearFaultRecord_rom : (clearFaultRecord s).rom = s.rom := rfl
@[simp] theorem clearFaultRecord_agenda : (clearFaultRecord s).agenda = s.agenda := rfl
@[simp] theorem clearFaultRecord_resp : (clearFaultRecord s).resp = s.resp := rfl
@[simp] theorem clearFaultRecord_draws : (clearFaultRecord s).draws = s.draws := rfl

/-! dropSnapshot (40_commands.md R118). -/

@[simp] theorem dropSnapshot_status_busy : (dropSnapshot s).status.busy = s.status.busy := rfl
@[simp] theorem dropSnapshot_status_valid : (dropSnapshot s).status.valid = false := rfl
@[simp] theorem dropSnapshot_status_fault : (dropSnapshot s).status.fault = s.status.fault := rfl
@[simp] theorem dropSnapshot_status_overrun : (dropSnapshot s).status.overrun = s.status.overrun := rfl
@[simp] theorem dropSnapshot_status_romOk : (dropSnapshot s).status.romOk = s.status.romOk := rfl
@[simp] theorem dropSnapshot_status_activeMode : (dropSnapshot s).status.activeMode = 0#3 := rfl
@[simp] theorem dropSnapshot_status_cause : (dropSnapshot s).status.cause = s.status.cause := rfl
@[simp] theorem dropSnapshot_faultInfo : (dropSnapshot s).faultInfo = s.faultInfo := rfl
@[simp] theorem dropSnapshot_mem : (dropSnapshot s).mem = s.mem := rfl
@[simp] theorem dropSnapshot_eng : (dropSnapshot s).eng = s.eng := rfl
@[simp] theorem dropSnapshot_rom : (dropSnapshot s).rom = s.rom := rfl
@[simp] theorem dropSnapshot_agenda : (dropSnapshot s).agenda = s.agenda := rfl
@[simp] theorem dropSnapshot_resp : (dropSnapshot s).resp = s.resp := rfl
@[simp] theorem dropSnapshot_draws : (dropSnapshot s).draws = s.draws := rfl

/-! startEngine (40_commands.md R114, R118). -/

@[simp] theorem startEngine_status_busy (op : EngOp) (left : Nat) : (startEngine op left s).status.busy = true := rfl
@[simp] theorem startEngine_status_valid (op : EngOp) (left : Nat) : (startEngine op left s).status.valid = s.status.valid := rfl
@[simp] theorem startEngine_status_fault (op : EngOp) (left : Nat) : (startEngine op left s).status.fault = s.status.fault := rfl
@[simp] theorem startEngine_status_overrun (op : EngOp) (left : Nat) : (startEngine op left s).status.overrun = s.status.overrun := rfl
@[simp] theorem startEngine_status_romOk (op : EngOp) (left : Nat) : (startEngine op left s).status.romOk = s.status.romOk := rfl
@[simp] theorem startEngine_status_activeMode (op : EngOp) (left : Nat) : (startEngine op left s).status.activeMode = s.status.activeMode := rfl
@[simp] theorem startEngine_status_cause (op : EngOp) (left : Nat) : (startEngine op left s).status.cause = s.status.cause := rfl
@[simp] theorem startEngine_faultInfo (op : EngOp) (left : Nat) : (startEngine op left s).faultInfo = s.faultInfo := rfl
@[simp] theorem startEngine_mem (op : EngOp) (left : Nat) : (startEngine op left s).mem = s.mem := rfl
@[simp] theorem startEngine_eng_op (op : EngOp) (left : Nat) : (startEngine op left s).eng.op = op := rfl
@[simp] theorem startEngine_eng_mode (op : EngOp) (left : Nat) : (startEngine op left s).eng.mode = s.eng.mode := rfl
@[simp] theorem startEngine_eng_left (op : EngOp) (left : Nat) : (startEngine op left s).eng.left = left := rfl
@[simp] theorem startEngine_rom (op : EngOp) (left : Nat) : (startEngine op left s).rom = s.rom := rfl
@[simp] theorem startEngine_agenda (op : EngOp) (left : Nat) : (startEngine op left s).agenda = s.agenda := rfl
@[simp] theorem startEngine_resp (op : EngOp) (left : Nat) : (startEngine op left s).resp = s.resp := rfl
@[simp] theorem startEngine_draws (op : EngOp) (left : Nat) : (startEngine op left s).draws = s.draws + 1 := rfl

/-! setEngMode (40_commands.md R118). -/

@[simp] theorem setEngMode_status (f : BitVec 3) : (setEngMode f s).status = s.status := rfl
@[simp] theorem setEngMode_faultInfo (f : BitVec 3) : (setEngMode f s).faultInfo = s.faultInfo := rfl
@[simp] theorem setEngMode_mem (f : BitVec 3) : (setEngMode f s).mem = s.mem := rfl
@[simp] theorem setEngMode_eng_op (f : BitVec 3) : (setEngMode f s).eng.op = s.eng.op := rfl
@[simp] theorem setEngMode_eng_mode (f : BitVec 3) : (setEngMode f s).eng.mode = f := rfl
@[simp] theorem setEngMode_eng_left (f : BitVec 3) : (setEngMode f s).eng.left = s.eng.left := rfl
@[simp] theorem setEngMode_rom (f : BitVec 3) : (setEngMode f s).rom = s.rom := rfl
@[simp] theorem setEngMode_agenda (f : BitVec 3) : (setEngMode f s).agenda = s.agenda := rfl
@[simp] theorem setEngMode_resp (f : BitVec 3) : (setEngMode f s).resp = s.resp := rfl
@[simp] theorem setEngMode_draws (f : BitVec 3) : (setEngMode f s).draws = s.draws := rfl

/-! finishEngine (40_commands.md R116, R120). -/

@[simp] theorem finishEngine_status_busy : (finishEngine s).status.busy = false := rfl
@[simp] theorem finishEngine_status_valid : (finishEngine s).status.valid = s.status.valid := rfl
@[simp] theorem finishEngine_status_fault : (finishEngine s).status.fault = s.status.fault := rfl
@[simp] theorem finishEngine_status_overrun : (finishEngine s).status.overrun = s.status.overrun := rfl
@[simp] theorem finishEngine_status_romOk : (finishEngine s).status.romOk = s.status.romOk := rfl
@[simp] theorem finishEngine_status_activeMode : (finishEngine s).status.activeMode = s.status.activeMode := rfl
@[simp] theorem finishEngine_status_cause : (finishEngine s).status.cause = s.status.cause := rfl
@[simp] theorem finishEngine_faultInfo : (finishEngine s).faultInfo = s.faultInfo := rfl
@[simp] theorem finishEngine_mem : (finishEngine s).mem = s.mem := rfl
@[simp] theorem finishEngine_eng_op : (finishEngine s).eng.op = .idle := rfl
@[simp] theorem finishEngine_eng_mode : (finishEngine s).eng.mode = s.eng.mode := rfl
@[simp] theorem finishEngine_eng_left : (finishEngine s).eng.left = s.eng.left := rfl
@[simp] theorem finishEngine_rom : (finishEngine s).rom = s.rom := rfl
@[simp] theorem finishEngine_agenda : (finishEngine s).agenda = s.agenda := rfl
@[simp] theorem finishEngine_resp : (finishEngine s).resp = s.resp := rfl
@[simp] theorem finishEngine_draws : (finishEngine s).draws = s.draws := rfl

/-! setEngLeft (70_reset_and_hazards.md R252). -/

@[simp] theorem setEngLeft_status (n : Nat) : (setEngLeft n s).status = s.status := rfl
@[simp] theorem setEngLeft_faultInfo (n : Nat) : (setEngLeft n s).faultInfo = s.faultInfo := rfl
@[simp] theorem setEngLeft_mem (n : Nat) : (setEngLeft n s).mem = s.mem := rfl
@[simp] theorem setEngLeft_eng_op (n : Nat) : (setEngLeft n s).eng.op = s.eng.op := rfl
@[simp] theorem setEngLeft_eng_mode (n : Nat) : (setEngLeft n s).eng.mode = s.eng.mode := rfl
@[simp] theorem setEngLeft_eng_left (n : Nat) : (setEngLeft n s).eng.left = n := rfl
@[simp] theorem setEngLeft_rom (n : Nat) : (setEngLeft n s).rom = s.rom := rfl
@[simp] theorem setEngLeft_agenda (n : Nat) : (setEngLeft n s).agenda = s.agenda := rfl
@[simp] theorem setEngLeft_resp (n : Nat) : (setEngLeft n s).resp = s.resp := rfl
@[simp] theorem setEngLeft_draws (n : Nat) : (setEngLeft n s).draws = s.draws := rfl

/-! forgetRams (40_commands.md R120). -/

@[simp] theorem forgetRams_status : (forgetRams s).status = s.status := rfl
@[simp] theorem forgetRams_faultInfo : (forgetRams s).faultInfo = s.faultInfo := rfl
@[simp] theorem forgetRams_mem : (forgetRams s).mem = Memory.absent := rfl
@[simp] theorem forgetRams_eng : (forgetRams s).eng = s.eng := rfl
@[simp] theorem forgetRams_rom : (forgetRams s).rom = s.rom := rfl
@[simp] theorem forgetRams_agenda : (forgetRams s).agenda = s.agenda := rfl
@[simp] theorem forgetRams_resp : (forgetRams s).resp = s.resp := rfl
@[simp] theorem forgetRams_draws : (forgetRams s).draws = s.draws := rfl

/-! commitRams (40_commands.md R120). -/

@[simp] theorem commitRams_status (p : Snapshot) : (commitRams p s).status = s.status := rfl
@[simp] theorem commitRams_faultInfo (p : Snapshot) : (commitRams p s).faultInfo = s.faultInfo := rfl
@[simp] theorem commitRams_mem (p : Snapshot) : (commitRams p s).mem = commitMemory p s.mem := rfl
@[simp] theorem commitRams_eng (p : Snapshot) : (commitRams p s).eng = s.eng := rfl
@[simp] theorem commitRams_rom (p : Snapshot) : (commitRams p s).rom = s.rom := rfl
@[simp] theorem commitRams_agenda (p : Snapshot) : (commitRams p s).agenda = s.agenda := rfl
@[simp] theorem commitRams_resp (p : Snapshot) : (commitRams p s).resp = s.resp := rfl
@[simp] theorem commitRams_draws (p : Snapshot) : (commitRams p s).draws = s.draws := rfl

/-! respond (20_memory.md R60). -/

@[simp] theorem respond_status (r : Response) : (respond r s).status = s.status := rfl
@[simp] theorem respond_faultInfo (r : Response) : (respond r s).faultInfo = s.faultInfo := rfl
@[simp] theorem respond_mem (r : Response) : (respond r s).mem = s.mem := rfl
@[simp] theorem respond_eng (r : Response) : (respond r s).eng = s.eng := rfl
@[simp] theorem respond_rom (r : Response) : (respond r s).rom = s.rom := rfl
@[simp] theorem respond_agenda (r : Response) : (respond r s).agenda = s.agenda := rfl
@[simp] theorem respond_resp (r : Response) : (respond r s).resp = some r := rfl
@[simp] theorem respond_draws (r : Response) : (respond r s).draws = s.draws := rfl

/-! setAgenda (log entry 2). -/

@[simp] theorem setAgenda_status (rest : List Event) : (setAgenda rest s).status = s.status := rfl
@[simp] theorem setAgenda_faultInfo (rest : List Event) : (setAgenda rest s).faultInfo = s.faultInfo := rfl
@[simp] theorem setAgenda_mem (rest : List Event) : (setAgenda rest s).mem = s.mem := rfl
@[simp] theorem setAgenda_eng (rest : List Event) : (setAgenda rest s).eng = s.eng := rfl
@[simp] theorem setAgenda_rom (rest : List Event) : (setAgenda rest s).rom = s.rom := rfl
@[simp] theorem setAgenda_agenda (rest : List Event) : (setAgenda rest s).agenda = rest := rfl
@[simp] theorem setAgenda_resp (rest : List Event) : (setAgenda rest s).resp = s.resp := rfl
@[simp] theorem setAgenda_draws (rest : List Event) : (setAgenda rest s).draws = s.draws := rfl

/-! setOverrun (10_state.md R28). -/

@[simp] theorem setOverrun_status_busy (b : Bool) : (setOverrun b s).status.busy = s.status.busy := rfl
@[simp] theorem setOverrun_status_valid (b : Bool) : (setOverrun b s).status.valid = s.status.valid := rfl
@[simp] theorem setOverrun_status_fault (b : Bool) : (setOverrun b s).status.fault = s.status.fault := rfl
@[simp] theorem setOverrun_status_overrun (b : Bool) : (setOverrun b s).status.overrun = b := rfl
@[simp] theorem setOverrun_status_romOk (b : Bool) : (setOverrun b s).status.romOk = s.status.romOk := rfl
@[simp] theorem setOverrun_status_activeMode (b : Bool) : (setOverrun b s).status.activeMode = s.status.activeMode := rfl
@[simp] theorem setOverrun_status_cause (b : Bool) : (setOverrun b s).status.cause = s.status.cause := rfl
@[simp] theorem setOverrun_faultInfo (b : Bool) : (setOverrun b s).faultInfo = s.faultInfo := rfl
@[simp] theorem setOverrun_mem (b : Bool) : (setOverrun b s).mem = s.mem := rfl
@[simp] theorem setOverrun_eng (b : Bool) : (setOverrun b s).eng = s.eng := rfl
@[simp] theorem setOverrun_rom (b : Bool) : (setOverrun b s).rom = s.rom := rfl
@[simp] theorem setOverrun_agenda (b : Bool) : (setOverrun b s).agenda = s.agenda := rfl
@[simp] theorem setOverrun_resp (b : Bool) : (setOverrun b s).resp = s.resp := rfl
@[simp] theorem setOverrun_draws (b : Bool) : (setOverrun b s).draws = s.draws := rfl

/-! setRomOk (10_state.md R29). -/

@[simp] theorem setRomOk_status_busy (b : Bool) : (setRomOk b s).status.busy = s.status.busy := rfl
@[simp] theorem setRomOk_status_valid (b : Bool) : (setRomOk b s).status.valid = s.status.valid := rfl
@[simp] theorem setRomOk_status_fault (b : Bool) : (setRomOk b s).status.fault = s.status.fault := rfl
@[simp] theorem setRomOk_status_overrun (b : Bool) : (setRomOk b s).status.overrun = s.status.overrun := rfl
@[simp] theorem setRomOk_status_romOk (b : Bool) : (setRomOk b s).status.romOk = b := rfl
@[simp] theorem setRomOk_status_activeMode (b : Bool) : (setRomOk b s).status.activeMode = s.status.activeMode := rfl
@[simp] theorem setRomOk_status_cause (b : Bool) : (setRomOk b s).status.cause = s.status.cause := rfl
@[simp] theorem setRomOk_faultInfo (b : Bool) : (setRomOk b s).faultInfo = s.faultInfo := rfl
@[simp] theorem setRomOk_mem (b : Bool) : (setRomOk b s).mem = s.mem := rfl
@[simp] theorem setRomOk_eng (b : Bool) : (setRomOk b s).eng = s.eng := rfl
@[simp] theorem setRomOk_rom (b : Bool) : (setRomOk b s).rom = s.rom := rfl
@[simp] theorem setRomOk_agenda (b : Bool) : (setRomOk b s).agenda = s.agenda := rfl
@[simp] theorem setRomOk_resp (b : Bool) : (setRomOk b s).resp = s.resp := rfl
@[simp] theorem setRomOk_draws (b : Bool) : (setRomOk b s).draws = s.draws := rfl

/-! setSnapshot (10_state.md R26, R30). -/

@[simp] theorem setSnapshot_status_busy (f : BitVec 3) : (setSnapshot f s).status.busy = s.status.busy := rfl
@[simp] theorem setSnapshot_status_valid (f : BitVec 3) : (setSnapshot f s).status.valid = true := rfl
@[simp] theorem setSnapshot_status_fault (f : BitVec 3) : (setSnapshot f s).status.fault = s.status.fault := rfl
@[simp] theorem setSnapshot_status_overrun (f : BitVec 3) : (setSnapshot f s).status.overrun = s.status.overrun := rfl
@[simp] theorem setSnapshot_status_romOk (f : BitVec 3) : (setSnapshot f s).status.romOk = s.status.romOk := rfl
@[simp] theorem setSnapshot_status_activeMode (f : BitVec 3) : (setSnapshot f s).status.activeMode = f := rfl
@[simp] theorem setSnapshot_status_cause (f : BitVec 3) : (setSnapshot f s).status.cause = s.status.cause := rfl
@[simp] theorem setSnapshot_faultInfo (f : BitVec 3) : (setSnapshot f s).faultInfo = s.faultInfo := rfl
@[simp] theorem setSnapshot_mem (f : BitVec 3) : (setSnapshot f s).mem = s.mem := rfl
@[simp] theorem setSnapshot_eng (f : BitVec 3) : (setSnapshot f s).eng = s.eng := rfl
@[simp] theorem setSnapshot_rom (f : BitVec 3) : (setSnapshot f s).rom = s.rom := rfl
@[simp] theorem setSnapshot_agenda (f : BitVec 3) : (setSnapshot f s).agenda = s.agenda := rfl
@[simp] theorem setSnapshot_resp (f : BitVec 3) : (setSnapshot f s).resp = s.resp := rfl
@[simp] theorem setSnapshot_draws (f : BitVec 3) : (setSnapshot f s).draws = s.draws := rfl

/-! The state after reset (10_state.md R46). -/

@[simp] theorem afterReset_status_busy (rom : Rom) (d : Nat) (ag : List Event) : (State.afterReset rom d ag).status.busy = true := rfl
@[simp] theorem afterReset_status_valid (rom : Rom) (d : Nat) (ag : List Event) : (State.afterReset rom d ag).status.valid = false := rfl
@[simp] theorem afterReset_status_fault (rom : Rom) (d : Nat) (ag : List Event) : (State.afterReset rom d ag).status.fault = false := rfl
@[simp] theorem afterReset_status_overrun (rom : Rom) (d : Nat) (ag : List Event) : (State.afterReset rom d ag).status.overrun = false := rfl
@[simp] theorem afterReset_status_romOk (rom : Rom) (d : Nat) (ag : List Event) : (State.afterReset rom d ag).status.romOk = false := rfl
@[simp] theorem afterReset_status_activeMode (rom : Rom) (d : Nat) (ag : List Event) : (State.afterReset rom d ag).status.activeMode = 0#3 := rfl
@[simp] theorem afterReset_status_cause (rom : Rom) (d : Nat) (ag : List Event) : (State.afterReset rom d ag).status.cause = .noFault := rfl
@[simp] theorem afterReset_faultInfo (rom : Rom) (d : Nat) (ag : List Event) : (State.afterReset rom d ag).faultInfo = 0x00000000#32 := rfl
@[simp] theorem afterReset_mem (rom : Rom) (d : Nat) (ag : List Event) : (State.afterReset rom d ag).mem = Memory.absent := rfl
@[simp] theorem afterReset_eng_op (rom : Rom) (d : Nat) (ag : List Event) : (State.afterReset rom d ag).eng.op = .selftest := rfl
@[simp] theorem afterReset_eng_mode (rom : Rom) (d : Nat) (ag : List Event) : (State.afterReset rom d ag).eng.mode = 0#3 := rfl
@[simp] theorem afterReset_eng_left (rom : Rom) (d : Nat) (ag : List Event) : (State.afterReset rom d ag).eng.left = Config.latSelftest d := rfl
@[simp] theorem afterReset_rom (rom : Rom) (d : Nat) (ag : List Event) : (State.afterReset rom d ag).rom = rom := rfl
@[simp] theorem afterReset_agenda (rom : Rom) (d : Nat) (ag : List Event) : (State.afterReset rom d ag).agenda = ag := rfl
@[simp] theorem afterReset_resp (rom : Rom) (d : Nat) (ag : List Event) : (State.afterReset rom d ag).resp = none := rfl
@[simp] theorem afterReset_draws (rom : Rom) (d : Nat) (ag : List Event) : (State.afterReset rom d ag).draws = d + 1 := rfl

end Sys2Proof.Machine
end

