-- ==== Sys2Proof/Laws/Ram.lean ====
section
/-! SUPPORT. The RAM operations: what a read sees after a commit, and that the canonical form is kept. -/

namespace Sys2Proof.Machine

open Sys2Proof

variable {α : Type}

theorem ramRead_nil (j : Nat) : ramRead ([] : List (Nat × α)) j = none := rfl

theorem ramRead_cons (e : Nat × α) (r : List (Nat × α)) (j : Nat) :
    ramRead (e :: r) j = if e.1 = j then some e.2 else ramRead r j := by
  by_cases h : e.1 = j <;> simp [ramRead, h]

theorem ramRead_append (r q : List (Nat × α)) (j : Nat) :
    ramRead (r ++ q) j = (ramRead r j).or (ramRead q j) := by
  induction r with
  | nil => simp [ramRead_nil]
  | cons e r ih => by_cases h : e.1 = j <;> simp [ramRead_cons, h, ih]

theorem ramRead_ramEntries (start : Nat) (vals : List α) (j : Nat) :
    ramRead (ramEntries start vals) j = if start ≤ j then vals[j - start]? else none := by
  induction vals generalizing start with
  | nil => simp [ramEntries, ramRead_nil]
  | cons v vs ih =>
    rw [ramEntries, ramRead_cons, ih]
    by_cases h : start = j
    · simp [h]
    · by_cases h' : start + 1 ≤ j
      · have h1 : start ≤ j := by omega
        have h2 : j - start = (j - (start + 1)) + 1 := by omega
        simp [h, h1, h2]
        omega
      · have h1 : ¬ start ≤ j := by omega
        simp [h, h']
        omega

theorem ramRead_filter (r : List (Nat × α)) (n j : Nat) :
    ramRead (r.filter (fun e => decide (n ≤ e.1))) j = if n ≤ j then ramRead r j else none := by
  induction r with
  | nil => simp [ramRead_nil]
  | cons e r ih =>
    by_cases hn : n ≤ e.1
    · rw [List.filter_cons_of_pos (by simpa using hn), ramRead_cons, ih, ramRead_cons]
      by_cases he : e.1 = j
      · subst he; simp [hn]
      · simp [he]
    · rw [List.filter_cons_of_neg (by simpa using hn), ih, ramRead_cons]
      by_cases he : e.1 = j
      · subst he; simp [hn]
      · simp [he]

/-- What a commit of K entries does to a read: below K the new entry, from K on the old one (40_commands.md R120,
10_state.md R35). -/
theorem ramRead_ramCommit (vals : List α) (r : List (Nat × α)) (j : Nat) :
    ramRead (ramCommit vals r) j = if j < vals.length then vals[j]? else ramRead r j := by
  rw [ramCommit, ramRead_append, ramRead_ramEntries, ramRead_filter]
  by_cases h : j < vals.length
  · simp [h]
  · have h' : vals.length ≤ j := by omega
    simp [h, h']

theorem mem_ramEntries {start : Nat} {vals : List α} {e : Nat × α} (h : e ∈ ramEntries start vals) :
    start ≤ e.1 ∧ e.1 < start + vals.length := by
  induction vals generalizing start with
  | nil => simp [ramEntries] at h
  | cons v vs ih =>
    rcases List.mem_cons.1 h with rfl | h
    · simp
    · have := ih h
      simp only [List.length_cons]
      omega

theorem ramEntries_rising (start : Nat) (vals : List α) :
    ((ramEntries start vals).map Prod.fst).Pairwise (· < ·) := by
  induction vals generalizing start with
  | nil => simp [ramEntries]
  | cons v vs ih =>
    rw [ramEntries, List.map_cons, List.pairwise_cons]
    refine ⟨?_, ih _⟩
    intro b hb
    obtain ⟨e, he, rfl⟩ := List.mem_map.1 hb
    have := (mem_ramEntries he).1
    omega

theorem ramWf_iff {n : Nat} (r : List (Nat × BitVec n)) :
    ramWf n r = true ↔ (r.map Prod.fst).Pairwise (· < ·) ∧ ∀ e ∈ r, e.1 < Config.windowDepth := by
  simp [ramWf]

/-- A commit of at most W entries keeps the canonical form. -/
theorem ramWf_ramCommit {n : Nat} (vals : List (BitVec n)) (r : List (Nat × BitVec n))
    (hlen : vals.length ≤ Config.windowDepth) (hr : ramWf n r = true) : ramWf n (ramCommit vals r) = true := by
  rw [ramWf_iff] at hr ⊢
  refine ⟨?_, ?_⟩
  · rw [ramCommit, List.map_append, List.pairwise_append]
    refine ⟨ramEntries_rising 0 vals, ?_, ?_⟩
    · exact hr.1.sublist (List.filter_sublist.map _)
    · intro a ha b hb
      obtain ⟨e, he, rfl⟩ := List.mem_map.1 ha
      obtain ⟨f, hf, rfl⟩ := List.mem_map.1 hb
      have h1 := (mem_ramEntries he).2
      have h2 := (List.mem_filter.1 hf).2
      simp only [decide_eq_true_eq] at h2
      omega
  · intro e he
    rcases List.mem_append.1 he with he | he
    · have := (mem_ramEntries he).2
      omega
    · exact hr.2 e (List.mem_filter.1 he).1

theorem Memory.wf_iff (m : Memory) :
    m.wf = true ↔ ramWf 2 m.prn = true ∧ ramWf 12 m.fis = true ∧ ramWf 11 m.ilv = true ∧ ramWf 11 m.dil = true := by
  simp [Memory.wf, and_assoc]

theorem Memory.wf_absent : Memory.absent.wf = true := by decide

/-- The commit of a snapshot of at most W entries keeps the canonical form of the four RAMs. -/
theorem wf_commitMemory (p : Snapshot) (m : Memory) (hm : m.wf = true)
    (h1 : p.prn.length ≤ Config.windowDepth) (h2 : p.fis.length ≤ Config.windowDepth)
    (h3 : p.ilv.length ≤ Config.windowDepth) (h4 : p.dil.length ≤ Config.windowDepth) :
    (commitMemory p m).wf = true := by
  rw [Memory.wf_iff] at hm ⊢
  obtain ⟨a, b, c, d⟩ := hm
  exact ⟨ramWf_ramCommit _ _ h1 a, ramWf_ramCommit _ _ (by simpa using h2) b,
    ramWf_ramCommit _ _ (by simpa using h3) c, ramWf_ramCommit _ _ (by simpa using h4) d⟩

/-- Two lists in canonical form that read the same at every index are the same list. -/
theorem ramWf_ext {n : Nat} {r q : List (Nat × BitVec n)} (hr : ramWf n r = true) (hq : ramWf n q = true)
    (h : ∀ j, ramRead r j = ramRead q j) : r = q := by
  induction r generalizing q with
  | nil =>
    cases q with
    | nil => rfl
    | cons f q => have := h f.1; simp [ramRead_nil, ramRead_cons] at this
  | cons e r ih =>
    cases q with
    | nil => have := h e.1; simp [ramRead_nil, ramRead_cons] at this
    | cons f q =>
      rw [ramWf_iff] at hr hq
      simp only [List.map_cons, List.pairwise_cons, List.mem_map, forall_exists_index, and_imp,
        forall_apply_eq_imp_iff₂] at hr hq
      have above : ∀ {t : List (Nat × BitVec n)} {x : Nat}, (∀ g ∈ t, x < g.1) → ∀ y ≤ x, ramRead t y = none := by
        intro t x ht y hy
        induction t with
        | nil => rfl
        | cons g t iht =>
          have hg := ht g (by simp)
          rw [ramRead_cons, if_neg (by omega)]
          exact iht fun g' hg' => ht g' (by simp [hg'])
      have hfst : e.1 = f.1 := by
        by_contra hne
        rcases Nat.lt_or_gt_of_ne hne with hlt | hlt
        · have h0 := h e.1
          rw [ramRead_cons, if_pos rfl, ramRead_cons, if_neg (by omega),
            above hq.1.1 e.1 (by omega)] at h0
          simp at h0
        · have h0 := h f.1
          rw [ramRead_cons, if_neg (by omega), ramRead_cons, if_pos rfl,
            above hr.1.1 f.1 (by omega)] at h0
          simp at h0
      have hsnd : e.2 = f.2 := by
        have h0 := h e.1
        rw [ramRead_cons, if_pos rfl, ramRead_cons, if_pos hfst.symm] at h0
        exact Option.some.inj h0
      have htail : r = q := by
        apply ih
        · rw [ramWf_iff]; exact ⟨hr.1.2, fun g hg => hr.2 g (by simp [hg])⟩
        · rw [ramWf_iff]; exact ⟨hq.1.2, fun g hg => hq.2 g (by simp [hg])⟩
        · intro j
          by_cases hj : j ≤ e.1
          · rw [above hr.1.1 j hj, above hq.1.1 j (by omega)]
          · have h0 := h j
            rwa [ramRead_cons, if_neg (by omega), ramRead_cons, if_neg (by omega)] at h0
      rw [show e = f from Prod.ext hfst hsnd, htail]

end Sys2Proof.Machine
end

