-- ==== Sys2Proof/Laws/Stages.lean ====
section
/-! SUPPORT. What each operation of the two derivation stages can do: the scans, the carrier walk, the recurrence, the
lengths of the results. -/

namespace Sys2Proof.Machine

open Sys2Proof

@[simp] theorem fdiv_eq (a b : Int) : fdiv a b = a / b := rfl

/-! The scan every check of the FI stage uses. -/

/-- The scan finds nothing exactly when nothing is bad. -/
theorem firstBad_eq_none (n : Nat) (bad : Nat → Bool) : firstBad n bad = none ↔ ∀ j, j < n → bad j = false := by
  simp [firstBad]

/-- The scan finds the smallest bad index. -/
theorem firstBad_eq_some (n : Nat) (bad : Nat → Bool) (j : Nat) :
    firstBad n bad = some j ↔ j < n ∧ bad j = true ∧ ∀ i, i < j → bad i = false := by
  rw [firstBad, List.find?_range_eq_some]
  constructor
  · rintro ⟨h1, h2, h3⟩
    exact ⟨List.mem_range.1 h2, h1, fun i hi => by simpa using h3 i hi⟩
  · rintro ⟨h1, h2, h3⟩
    exact ⟨h2, List.mem_range.2 h1, fun i hi => by simpa using h3 i hi⟩

/-! The carrier walk (41_prn_generator.md R147). -/

/-- A successful walk gives one code per carrier, each the carrier's own. -/
theorem prnWalk_ok {rows : List PrnRow} {h : PhaseTable} {K : Nat} {ks : List Int} {out : List PhaseCode}
    (hw : prnWalk rows h K ks = .ok out) : List.Forall₂ (fun k phi => prnCarrier rows h K k = .ok phi) ks out := by
  induction ks generalizing out with
  | nil => simp only [prnWalk, Except.ok.injEq] at hw; subst hw; exact .nil
  | cons k ks ih =>
    unfold prnWalk at hw
    split at hw
    · cases hw
    · split at hw
      · cases hw
      · cases hw
        exact .cons ‹_› (ih ‹_›)

/-- A walk over carriers that all pass succeeds. -/
theorem prnWalk_of_forall {rows : List PrnRow} {h : PhaseTable} {K : Nat} {ks : List Int}
    (hk : ∀ k ∈ ks, ∃ phi, prnCarrier rows h K k = .ok phi) : ∃ out, prnWalk rows h K ks = .ok out := by
  induction ks with
  | nil => exact ⟨[], rfl⟩
  | cons k ks ih =>
    obtain ⟨phi, hphi⟩ := hk k (by simp)
    obtain ⟨out, hout⟩ := ih fun k' hk' => hk k' (by simp [hk'])
    exact ⟨phi :: out, by simp [prnWalk, hphi, hout]⟩

/-- A failing walk stops at a carrier whose own check fails, every earlier one having passed. -/
theorem prnWalk_error {rows : List PrnRow} {h : PhaseTable} {K : Nat} {ks : List Int} {r : Raise} :
    prnWalk rows h K ks = .error r ↔
      ∃ pre k post, ks = pre ++ k :: post ∧ (∀ k' ∈ pre, ∃ phi, prnCarrier rows h K k' = .ok phi) ∧
        prnCarrier rows h K k = .error r := by
  induction ks with
  | nil => simp [prnWalk]
  | cons k ks ih =>
    constructor
    · intro hw
      unfold prnWalk at hw
      split at hw
      · next r' hr' => cases hw; exact ⟨[], k, ks, rfl, by simp, hr'⟩
      · next phi hphi =>
        split at hw
        · next r' hr' =>
          cases hw
          obtain ⟨pre, k', post, rfl, hpre, hk'⟩ := ih.1 hr'
          refine ⟨k :: pre, k', post, rfl, ?_, hk'⟩
          intro x hx
          rcases List.mem_cons.1 hx with rfl | hx
          · exact ⟨phi, hphi⟩
          · exact hpre x hx
        · cases hw
    · rintro ⟨pre, k', post, hks, hpre, hk'⟩
      cases pre with
      | nil =>
        simp only [List.nil_append, List.cons.injEq] at hks
        obtain ⟨rfl, rfl⟩ := hks
        simp [prnWalk, hk']
      | cons x pre =>
        simp only [List.cons_append, List.cons.injEq] at hks
        obtain ⟨rfl, rfl⟩ := hks
        obtain ⟨phi, hphi⟩ := hpre k (by simp)
        have := ih.2 ⟨pre, k', post, rfl, fun y hy => hpre y (by simp [hy]), hk'⟩
        simp [prnWalk, hphi, this]

theorem length_carrierOrder (K : Nat) : (carrierOrder K).length = 2 * (K / 2) := by
  simp [carrierOrder]; omega

theorem carrierOrder_getElem? (K j : Nat) :
    (carrierOrder K)[j]? =
      if j < K / 2 then some ((j : Int) - (K / 2 : Nat))
      else if j < 2 * (K / 2) then some ((j : Int) - (K / 2 : Nat) + 1) else none := by
  unfold carrierOrder
  rw [List.getElem?_append]
  simp only [List.length_map, List.length_range, List.getElem?_map]
  by_cases h1 : j < K / 2
  · simp [h1]
  · by_cases h2 : j < 2 * (K / 2)
    · have h3 : j - K / 2 < K / 2 := by omega
      rw [if_neg h1, List.getElem?_range h3, if_neg h1, if_pos h2]
      simp
      omega
    · have h3 : K / 2 ≤ j - K / 2 := by omega
      rw [if_neg h1, List.getElem?_eq_none (by rw [List.length_range]; exact h3), if_neg h1, if_neg h2]
      rfl

/-- A carrier is a nonzero integer of [-K/2, K/2] (00_scope.md R17). -/
theorem mem_carrierOrder (K : Nat) (k : Int) :
    k ∈ carrierOrder K ↔ k ≠ 0 ∧ -((K / 2 : Nat) : Int) ≤ k ∧ k ≤ ((K / 2 : Nat) : Int) := by
  simp only [carrierOrder, List.mem_append, List.mem_map, List.mem_range]
  constructor
  · rintro (⟨j, hj, rfl⟩ | ⟨j, hj, rfl⟩) <;> omega
  · rintro ⟨h0, h1, h2⟩
    by_cases h : k < 0
    · exact .inl ⟨(k + (K / 2 : Nat)).toNat, by omega, by omega⟩
    · exact .inr ⟨(k - 1).toNat, by omega, by omega⟩

/-! The recurrence (42_frequency_interleaver.md R171). -/

theorem length_lcrFrom (N count A : Nat) : (lcrFrom N count A).length = count := by
  induction count generalizing A with
  | zero => rfl
  | succ c ih => simp [lcrFrom, ih]

theorem lcrFrom_succ (N : Nat) (count A i : Nat) (x y : Nat) (hx : (lcrFrom N count A)[i]? = some x)
    (hy : (lcrFrom N count A)[i + 1]? = some y) : y = lcrNext N x := by
  induction count generalizing A i with
  | zero => simp [lcrFrom] at hx
  | succ c ih =>
    cases i with
    | zero =>
      simp only [lcrFrom, List.getElem?_cons_zero, Option.some.injEq, List.getElem?_cons_succ] at hx hy
      cases c with
      | zero => simp [lcrFrom] at hy
      | succ c => simp only [lcrFrom, List.getElem?_cons_zero, Option.some.injEq] at hy; subst hx; exact hy.symm
    | succ i =>
      simp only [lcrFrom, List.getElem?_cons_succ] at hx hy
      exact ih _ _ hx hy

theorem lcrNext_lt {N : Nat} (hN : 0 < N) (A : Nat) : lcrNext N A < N := Nat.mod_lt _ hN

theorem lcrFrom_lt {N : Nat} (hN : 0 < N) (count A : Nat) (hA : A < N) : ∀ x ∈ lcrFrom N count A, x < N := by
  induction count generalizing A with
  | zero => simp [lcrFrom]
  | succ c ih =>
    intro x hx
    rcases List.mem_cons.1 hx with rfl | hx
    · exact hA
    · exact ih _ (lcrNext_lt hN A) x hx

/-! The checks of the FI stage (42_frequency_interleaver.md R190). -/

/-- What a successful FI stage has checked, and what it returns. -/
theorem fiChecks_ok {K : Nat} {golden S : List Int} {f : FiResult} (h : fiChecks K golden S = .ok f) :
    S.length = K ∧ firstBad K (repeatsAt S) = none ∧ goldenCheck golden S = none ∧
      firstBad K (arrayBad K (arrayForm K S)) = none ∧
      firstBad K (roundtripBad ((arrayForm K S).map Int.toNat) (inverseOf K ((arrayForm K S).map Int.toNat))) = none ∧
      f = ⟨S, (arrayForm K S).map Int.toNat, inverseOf K ((arrayForm K S).map Int.toNat)⟩ := by
  unfold fiChecks at h
  split at h
  · cases h
  · next hc =>
    split at h
    · cases h
    · next hd =>
      split at h
      · cases h
      · next hg =>
        split at h
        · cases h
        · next ha =>
          simp only at h
          split at h
          · cases h
          · next hr =>
            cases h
            refine ⟨?_, ?_, hg, ?_, ?_, rfl⟩
            · by_contra hne; simp [countCheck, hne] at hc
            · unfold duplicateCheck at hd; split at hd <;> simp_all
            · unfold arrayCheck at ha; split at ha <;> simp_all
            · unfold roundtripCheck at hr; split at hr <;> simp_all

theorem length_writeInverse (start : Nat) (vs dil : List Nat) : (writeInverse start vs dil).length = dil.length := by
  induction vs generalizing start dil with
  | nil => rfl
  | cons v vs ih => simp [writeInverse, ih]

theorem length_inverseOf (K : Nat) (ilv : List Nat) : (inverseOf K ilv).length = K := by
  simp [inverseOf, length_writeInverse]

/-- A successful FI stage returns three lists of K elements. -/
theorem fiStage_lengths {rom : Rom} {m : Mode} {f : FiResult} (h : fiStage rom m = .ok f) :
    f.fis.length = carriersOf rom m ∧ f.ilv.length = carriersOf rom m ∧ f.dil.length = carriersOf rom m := by
  obtain ⟨h1, -, -, -, -, rfl⟩ := fiChecks_ok h
  simp [arrayForm, h1, length_inverseOf]

/-- A successful PRN stage returns one code per carrier. -/
theorem prnStage_length {rom : Rom} {m : Mode} {out : List PhaseCode} (h : prnStage rom m = .ok out) :
    out.length = 2 * (carriersOf rom m / 2) := by
  rw [← (prnWalk_ok h).length_eq, length_carrierOrder]

/-- A successful derivation is a successful PRN stage and a successful FI stage (40_commands.md R121). -/
theorem derivation_ok {rom : Rom} {m : Mode} {p : Snapshot} (h : derivation rom m = .ok p) :
    prnStage rom m = .ok p.prn ∧ fiStage rom m = .ok ⟨p.fis, p.ilv, p.dil⟩ := by
  unfold derivation at h
  split at h
  · cases h
  · split at h
    · cases h
    · cases h; exact ⟨‹_›, ‹_›⟩

theorem Rom.admitted_mode {rom : Rom} (h : rom.admitted = true) (m : Mode) : (rom.mode m).admitted = true := by
  simp only [Rom.admitted, Bool.and_eq_true] at h
  obtain ⟨⟨⟨⟨h1, h2⟩, h3⟩, h4⟩, -⟩ := h
  cases m <;> assumption

/-- The premises of 10_state.md R48 on one mode's carriers, FFT length and rows. -/
theorem Rom.admitted_bounds {rom : Rom} (h : rom.admitted = true) (m : Mode) :
    0 < carriersOf rom m ∧ carriersOf rom m % 64 = 0 ∧ carriersOf rom m ≤ 2048 ∧
      0 < fftLengthOf rom m ∧ fftLengthOf rom m % 8 = 0 ∧ fftLengthOf rom m ≤ 2048 ∧
      (rom.mode m).prnRows.length = carriersOf rom m / 32 ∧ (rom.mode m).golden.length ≤ 10 := by
  have := Rom.admitted_mode h m
  simp only [ModeRom.admitted, ModeConst.positive, Bool.and_eq_true, decide_eq_true_eq] at this
  simp only [carriersOf, fftLengthOf]
  obtain ⟨⟨⟨⟨⟨-, h1, -, -, -, h2, -⟩, h3, h4⟩, h5, h6⟩, h7⟩, h8⟩ := this
  exact ⟨h1, h5, h6, h2, h3, h4, h7, h8⟩

/-- Under the premises every list of a snapshot has K elements. -/
theorem derivation_lengths {rom : Rom} {m : Mode} {p : Snapshot} (ha : rom.admitted = true)
    (h : derivation rom m = .ok p) :
    p.prn.length = carriersOf rom m ∧ p.fis.length = carriersOf rom m ∧ p.ilv.length = carriersOf rom m ∧
      p.dil.length = carriersOf rom m := by
  obtain ⟨hp, hf⟩ := derivation_ok h
  have := Rom.admitted_bounds ha m
  have h2 := prnStage_length hp
  exact ⟨by omega, fiStage_lengths hf⟩

end Sys2Proof.Machine
end

