-- ==== Sys2Proof/Laws/Step.lean ====
section
/-! SUPPORT. What a step can do, said once: one inversion lemma per operation that answers an outcome, guards included. -/

namespace Sys2Proof.Machine

open Sys2Proof

/-- SELFTEST completion fails with the first failing identity or passes (40_commands.md R116). -/
theorem completeSelftest_cases (s : State) :
    (∃ r, constCheck s.rom = some r ∧ completeSelftest s = setRomOk false (raiseFault r s)) ∨
    (constCheck s.rom = none ∧ completeSelftest s = finishEngine (setRomOk true s)) := by
  unfold completeSelftest
  cases h : constCheck s.rom with
  | none => exact .inr ⟨rfl, rfl⟩
  | some r => exact .inl ⟨r, rfl, rfl⟩

/-- DERIVE completion faults or commits (40_commands.md R120). -/
theorem completeDerive_cases {s t : State} (h : completeDerive s = .next t) :
    ∃ m, modeOfField s.eng.mode = some m ∧
      ((∃ r, derivation s.rom m = .error r ∧ t = forgetRams (raiseFault r s)) ∨
       (∃ p, derivation s.rom m = .ok p ∧ t = finishEngine (setSnapshot s.eng.mode (commitRams p s)))) := by
  unfold completeDerive at h
  split at h
  · cases h
  · next m hm =>
    refine ⟨m, hm, ?_⟩
    split at h
    · cases h; exact .inl ⟨_, ‹_›, rfl⟩
    · cases h; exact .inr ⟨_, ‹_›, rfl⟩

/-- A derivation that succeeds is committed (40_commands.md R120). -/
theorem completeDerive_ok {s : State} {m : Mode} {p : Snapshot} (hm : modeOfField s.eng.mode = some m)
    (hp : derivation s.rom m = .ok p) :
    completeDerive s = .next (finishEngine (setSnapshot s.eng.mode (commitRams p s))) := by
  simp only [completeDerive, hm, hp]

/-- A derivation that raises takes the fault (40_commands.md R120, 60_exceptions.md R215). -/
theorem completeDerive_error {s : State} {m : Mode} {r : Raise} (hm : modeOfField s.eng.mode = some m)
    (hr : derivation s.rom m = .error r) : completeDerive s = .next (forgetRams (raiseFault r s)) := by
  simp only [completeDerive, hm, hr]

/-- DERIVE completion stops only when ENG.MODE names no mode, and is never refused. -/
theorem completeDerive_stops (s : State) :
    (∃ t, completeDerive s = .next t) ∨
      (modeOfField s.eng.mode = none ∧ completeDerive s = .fault .engineModeUndefined) := by
  unfold completeDerive
  split
  · exact .inr ⟨‹_›, rfl⟩
  · split <;> exact .inl ⟨_, rfl⟩

/-- An engine step (70_reset_and_hazards.md R252). -/
theorem engineStep_cases {s t : State} (h : engineStep s = .next t) :
    (s.eng.op = .idle ∧ t = s) ∨
    (s.eng.op ≠ .idle ∧ ∃ n, s.eng.left = n + 1 ∧ t = setEngLeft n s) ∨
    (s.eng.op = .selftest ∧ s.eng.left = 0 ∧ s.rom.admitted = true ∧ t = completeSelftest s) ∨
    (s.eng.op = .derive ∧ s.eng.left = 0 ∧ s.rom.admitted = true ∧ completeDerive s = .next t) := by
  unfold engineStep at h
  split at h
  · next ho => cases h; exact .inl ⟨ho, rfl⟩
  · next n ho hl => cases h; exact .inr (.inl ⟨by simp [ho], n, hl, rfl⟩)
  · next n ho hl => cases h; exact .inr (.inl ⟨by simp [ho], n, hl, rfl⟩)
  · next ho hl =>
    unfold onAdmittedRom at h
    split at h
    · next ha => cases h; exact .inr (.inr (.inl ⟨ho, hl, ha, rfl⟩))
    · cases h
  · next ho hl =>
    unfold onAdmittedRom at h
    split at h
    · next ha => exact .inr (.inr (.inr ⟨ho, hl, ha, h⟩))
    · cases h

theorem engineStep_idle {s : State} (h : s.eng.op = .idle) : engineStep s = .next s := by
  simp [engineStep, h]

theorem engineStep_running {s : State} {n : Nat} (ho : s.eng.op ≠ .idle) (hl : s.eng.left = n + 1) :
    engineStep s = .next (setEngLeft n s) := by
  unfold engineStep
  cases h : s.eng.op <;> simp_all

theorem engineStep_selftest {s : State} (ho : s.eng.op = .selftest) (hl : s.eng.left = 0)
    (ha : s.rom.admitted = true) : engineStep s = .next (completeSelftest s) := by
  simp [engineStep, ho, hl, onAdmittedRom, ha]

theorem engineStep_derive {s : State} (ho : s.eng.op = .derive) (hl : s.eng.left = 0)
    (ha : s.rom.admitted = true) : engineStep s = completeDerive s := by
  simp [engineStep, ho, hl, onAdmittedRom, ha]

/-- What an accepted command does (40_commands.md R112, R114, R118, R122). -/
theorem exec_cases {i : Instr} {s t : State} (h : exec i s = .next t) :
    (i = .nop ∧ t = s) ∨
    (i = .clearFault ∧ t = setOverrun false (clearFaultRecord s)) ∨
    (i = .selftest ∧ t = startEngine .selftest (Config.latSelftest s.draws) (clearFaultRecord s)) ∨
    (∃ f, i = .derive f ∧
      ((modeOfField f = none ∧ t = raiseFault ⟨.invalidMode, zext32 f⟩ (dropSnapshot (clearFaultRecord s))) ∨
       ((modeOfField f).isSome = true ∧ s.status.romOk = false ∧
         t = raiseFault ⟨.constTable, 0x00000000#32⟩ (dropSnapshot (clearFaultRecord s))) ∨
       ((modeOfField f).isSome = true ∧ s.status.romOk = true ∧
         t = setEngMode f (startEngine .derive (Config.latDerive s.draws) (dropSnapshot (clearFaultRecord s)))))) := by
  cases i with
  | nop => cases h; exact .inl ⟨rfl, rfl⟩
  | clearFault => cases h; exact .inr (.inl ⟨rfl, rfl⟩)
  | selftest => cases h; exact .inr (.inr (.inl ⟨rfl, rfl⟩))
  | derive f =>
    refine .inr (.inr (.inr ⟨f, rfl, ?_⟩))
    simp only [exec, execDerive, dropSnapshot_status_romOk, clearFaultRecord_status_romOk] at h
    split at h
    · cases h; exact .inl ⟨‹_›, rfl⟩
    · split at h
      · cases h; exact .inr (.inr ⟨by simp [*], ‹_›, rfl⟩)
      · cases h; exact .inr (.inl ⟨by simp [*], ‹_›, rfl⟩)

/-- An aligned CMD write (40_commands.md R110): dropped, executed, or illegal. -/
theorem cmdWrite_cases {w : Word} {s t : State} (h : cmdWrite w s = .next t) :
    (s.status.busy = true ∧ t = setOverrun true s) ∨
    (s.status.busy = false ∧ ∃ i, decode w = .command i ∧ exec i s = .next t) ∨
    (s.status.busy = false ∧ ∃ why, decode w = .illegal why ∧ t = raiseFault ⟨.illegalCmd, w⟩ s) := by
  unfold cmdWrite at h
  split at h
  · cases h; exact .inl ⟨‹_›, rfl⟩
  · next hb =>
    split at h
    · exact .inr (.inl ⟨hb, _, ‹_›, h⟩)
    · cases h; exact .inr (.inr ⟨hb, _, ‹_›, rfl⟩)

/-- A read leaves everything but the port's answer (20_memory.md R71). -/
theorem busRead_cases {a : Addr} {s t : State} (h : busRead a s = .next t) :
    (aligned a = true ∧ ∃ w, readWord s a = .ok w ∧ t = respond (.read .okay w) s) ∨
    (aligned a = false ∧ t = respond (.read .busError 0x00000000#32) s) := by
  unfold busRead at h
  split at h
  · split at h
    · cases h; exact .inl ⟨‹_›, _, ‹_›, rfl⟩
    · cases h
  · next hn => cases h; exact .inr ⟨hn, rfl⟩

/-- A write that is no aligned CMD write changes nothing but the port's answer (20_memory.md R64, R68, R69, R71). -/
theorem busWrite_cases {a : Addr} {v : Word} {s t : State} (h : busWrite a v s = .next t) :
    (aligned a = true ∧ regionOf a = .cmd ∧ cmdWrite v (respond (.write .okay) s) = .next t) ∨
    (aligned a = true ∧ regionOf a ≠ .cmd ∧ t = respond (.write .okay) s) ∨
    (aligned a = false ∧ t = respond (.write .busError) s) := by
  unfold busWrite at h
  split at h
  · next ha =>
    split at h
    · exact .inl ⟨ha, ‹_›, h⟩
    all_goals
      cases h
      exact .inr (.inl ⟨ha, by simp [*], rfl⟩)
  · next hn => cases h; exact .inr (.inr ⟨hn, rfl⟩)

/-- A host transaction: an answer alone, or an answer and a CMD write (20_memory.md R71). -/
theorem transact_cases {x : Txn} {s t : State} (h : transact x s = .next t) :
    (∃ r, t = respond r s) ∨ (∃ w, cmdWrite w (respond (.write .okay) s) = .next t) := by
  cases x with
  | read a =>
    rcases busRead_cases h with ⟨-, w, -, rfl⟩ | ⟨-, rfl⟩ <;> exact .inl ⟨_, rfl⟩
  | write a v =>
    rcases busWrite_cases h with ⟨-, -, h⟩ | ⟨-, -, rfl⟩ | ⟨-, rfl⟩
    · exact .inr ⟨v, h⟩
    · exact .inl ⟨_, rfl⟩
    · exact .inl ⟨_, rfl⟩

/-- One step: the engine's when the agenda is exhausted, else the agenda's first move (70_reset_and_hazards.md R252, log
entry 2). -/
theorem step_cases {s t : State} (h : step s = .next t) :
    (s.agenda = [] ∧ engineStep s = .next t) ∨
    (∃ rest, s.agenda = .engine :: rest ∧ engineStep (setAgenda rest s) = .next t) ∨
    (∃ rest, s.agenda = .reset :: rest ∧ t = resetBlock (setAgenda rest s)) ∨
    (∃ rest x, s.agenda = .host x :: rest ∧ transact x (setAgenda rest s) = .next t) := by
  unfold step nextMove at h
  cases ha : s.agenda with
  | nil => rw [ha] at h; exact .inl ⟨rfl, h⟩
  | cons e rest =>
    rw [ha] at h
    cases e with
    | host x => exact .inr (.inr (.inr ⟨rest, x, rfl, h⟩))
    | engine => exact .inr (.inl ⟨rest, rfl, h⟩)
    | reset => cases h; exact .inr (.inr (.inl ⟨rest, rfl, rfl⟩))

theorem step_of_nil {s : State} (h : s.agenda = []) : step s = engineStep s := by
  simp [step, nextMove, h]

theorem step_of_cons {s : State} {e : Event} {rest : List Event} (h : s.agenda = e :: rest) :
    step s = moveOf e (setAgenda rest s) := by
  simp [step, nextMove, h]

/-- A completion step is the engine's step over the moves that are left, exhausted agenda or not. -/
theorem step_of_completes {op : EngOp} {s : State} (h : completes op s) :
    step s = engineStep (setAgenda s.agenda.tail s) := by
  obtain ⟨-, -, ha | ⟨rest, ha⟩⟩ := h
  · rw [step_of_nil ha, ha, List.tail_nil, ← ha]; rfl
  · rw [step_of_cons ha, ha]; rfl

/-! Runs. -/

theorem runMoves_zero (s : State) : runMoves 0 s = .next s := rfl

theorem runMoves_succ {s t : State} {n : Nat} (h : step s = .next t) : runMoves (n + 1) s = runMoves n t := by
  simp [runMoves, Host.Core.run, Sys2Proof.core, h]

/-- A run that answers a next state went through a first step that did. -/
theorem runMoves_cases {s t : State} {n : Nat} (h : runMoves (n + 1) s = .next t) :
    ∃ u, step s = .next u ∧ runMoves n u = .next t := by
  cases hs : step s with
  | next u => exact ⟨u, rfl, by rw [← runMoves_succ hs]; exact h⟩
  | fault f => simp [runMoves, Host.Core.run, Sys2Proof.core, hs] at h
  | refused r => simp [runMoves, Host.Core.run, Sys2Proof.core, hs] at h

/-- An invariant of every step holds after every run. -/
theorem runMoves_induction {P : State → Prop} (hstep : ∀ s t, P s → step s = .next t → P t) {n : Nat} {s t : State}
    (hs : P s) (h : runMoves n s = .next t) : P t := by
  induction n generalizing s with
  | zero => cases h; exact hs
  | succ n ih =>
    obtain ⟨u, hu, ht⟩ := runMoves_cases h
    exact ih (hstep s u hs hu) ht

/-! The address map (20_memory.md R66). -/

theorem modeOfField_eq_some_iff (f : BitVec 3) (m : Mode) : modeOfField f = some m ↔ f.toNat = m.number := by
  cases m <;> revert f <;> decide

theorem modeOfField_isSome_iff (f : BitVec 3) : (modeOfField f).isSome = true ↔ 1 ≤ f.toNat ∧ f.toNat ≤ 4 := by
  revert f; decide

theorem aligned_iff (a : Addr) : aligned a = true ↔ a.toNat % 4 = 0 := by
  simp [aligned, ← BitVec.toNat_inj]

end Sys2Proof.Machine
end

