-- ==== Sys2Proof/Laws/Checks.lean ====
section
/-! SUPPORT. What each hardware check raises and what passing it means; the row of every carrier; the inverse sequence; the
windows' offsets. -/

namespace Sys2Proof.Machine

open Sys2Proof

/-! The causes the checks raise (60_exceptions.md R210). -/

theorem constCheckMode_cause {rom : Rom} {m : Mode} {r : Raise} (h : constCheckMode rom m = some r) :
    r.cause = .constTable := by
  unfold constCheckMode at h
  dsimp only at h
  split at h
  · cases h; rfl
  · split at h <;> cases h; rfl

/-- The self-test raises CONST_TABLE only (40_commands.md R115). -/
theorem constCheck_cause {rom : Rom} {r : Raise} (h : constCheck rom = some r) : r.cause = .constTable := by
  have list : ∀ ms, constCheckModes rom ms = some r → r.cause = .constTable := by
    intro ms
    induction ms with
    | nil => intro h; cases h
    | cons m ms ih =>
      intro h
      unfold constCheckModes at h
      split at h
      · cases h; exact constCheckMode_cause ‹_›
      · exact ih h
  exact list _ h

/-- One carrier raises PRN_ROW_RANGE or PRN_KPRIME (41_prn_generator.md R145). -/
theorem prnCarrier_cause {rows : List PrnRow} {h : PhaseTable} {K : Nat} {k : Int} {r : Raise}
    (hk : prnCarrier rows h K k = .error r) : r.cause = .prnRowRange ∨ r.cause = .prnKprime := by
  unfold prnCarrier at hk
  dsimp only at hk
  split at hk
  · cases hk; exact .inl rfl
  · split at hk <;> cases hk; exact .inr rfl

theorem countCheck_cause {K : Nat} {S : List Int} {r : Raise} (h : countCheck K S = some r) : r.cause = .fiCount := by
  unfold countCheck at h
  split at h <;> cases h; rfl

theorem duplicateCheck_cause {K : Nat} {S : List Int} {r : Raise} (h : duplicateCheck K S = some r) :
    r.cause = .fiDuplicate := by
  unfold duplicateCheck at h
  split at h <;> cases h; rfl

theorem goldenCheck_cause {golden S : List Int} {r : Raise} (h : goldenCheck golden S = some r) :
    r.cause = .fiGolden := by
  unfold goldenCheck at h
  split at h <;> cases h; rfl

theorem arrayCheck_cause {K : Nat} {ilv : List Int} {r : Raise} (h : arrayCheck K ilv = some r) :
    r.cause = .fiArray := by
  unfold arrayCheck at h
  split at h <;> cases h; rfl

theorem roundtripCheck_cause {K : Nat} {ilv dil : List Nat} {r : Raise} (h : roundtripCheck K ilv dil = some r) :
    r.cause = .fiRoundtrip := by
  unfold roundtripCheck at h
  split at h <;> cases h; rfl

/-- The FI stage raises one of its five causes (42_frequency_interleaver.md R190). -/
theorem fiChecks_cause {K : Nat} {golden S : List Int} {r : Raise} (h : fiChecks K golden S = .error r) :
    r.cause ∈ [Cause.fiCount, .fiDuplicate, .fiGolden, .fiArray, .fiRoundtrip] := by
  unfold fiChecks at h
  split at h
  · cases h; simp [countCheck_cause ‹_›]
  · split at h
    · cases h; simp [duplicateCheck_cause ‹_›]
    · split at h
      · cases h; simp [goldenCheck_cause ‹_›]
      · split at h
        · cases h; simp [arrayCheck_cause ‹_›]
        · dsimp only at h
          split at h
          · cases h; simp [roundtripCheck_cause ‹_›]
          · cases h

/-- A derivation that fails raises a cause (40_commands.md R121). -/
theorem derivation_cause {rom : Rom} {m : Mode} {r : Raise} (h : derivation rom m = .error r) :
    r.cause ≠ .noFault := by
  unfold derivation at h
  split at h
  · cases h
    obtain ⟨-, k, -, -, -, hk⟩ := prnWalk_error.1 ‹_›
    rcases prnCarrier_cause hk with e | e <;> simp [e]
  · split at h
    · cases h
      intro e
      have := fiChecks_cause ‹_›
      simp [e] at this
    · cases h

/-! The PRN stage's carriers (41_prn_generator.md R142 to R145). -/

/-- A carrier with its row passes exactly when both of the row's checks do. -/
theorem prnCarrier_ok_iff {rows : List PrnRow} (h : PhaseTable) {K : Nat} {k : Int} {row : PrnRow}
    (hr : rows[(rowIndex K k).toNat]? = some row) :
    (∃ phi, prnCarrier rows h K k = .ok phi) ↔
      row.kMin.toInt ≤ k ∧ k ≤ row.kMax.toInt ∧ anchor k = row.kAnchor.toInt := by
  have e : prnRowAt rows K k = row := by simp [prnRowAt, hr]
  unfold prnCarrier
  rw [e]
  dsimp only
  by_cases h1 : row.kMin.toInt ≤ k ∧ k ≤ row.kMax.toInt
  · rw [if_neg (by simpa using h1)]
    by_cases h2 : anchor k = row.kAnchor.toInt
    · rw [if_neg (by simpa using h2)]; simp [h1, h2]
    · rw [if_pos h2]; simp [h2]
  · rw [if_pos h1]
    simp only [reduceCtorEq, exists_false, false_iff]
    exact fun hc => h1 ⟨hc.1, hc.2.1⟩

/-- Under the premises every carrier's row exists (41_prn_generator.md R143). -/
theorem prnRow_exists {rom : Rom} {m : Mode} (ha : rom.admitted = true) {k : Int}
    (hk : k ∈ carrierOrder (carriersOf rom m)) :
    ∃ row, (rom.mode m).prnRows[(rowIndex (carriersOf rom m) k).toNat]? = some row := by
  obtain ⟨h1, h2, h3, -, -, -, h7, -⟩ := Rom.admitted_bounds ha m
  rw [mem_carrierOrder] at hk
  have : (rowIndex (carriersOf rom m) k).toNat < (rom.mode m).prnRows.length := by
    rw [h7]; unfold rowIndex; simp only [fdiv_eq]; split <;> omega
  exact ⟨_, List.getElem?_eq_getElem this⟩

/-! The inverse sequence (42_frequency_interleaver.md R188). -/

/-- Writing the inverse of distinct values below the length: each value's entry gets its position, the others keep
theirs. -/
theorem writeInverse_getElem? (start : Nat) (vs dil : List Nat) (hn : vs.Nodup) (hb : ∀ v ∈ vs, v < dil.length) :
    (∀ u v : Nat, vs[u]? = some v → (writeInverse start vs dil)[v]? = some (start + u)) ∧
      (∀ v, v ∉ vs → (writeInverse start vs dil)[v]? = dil[v]?) := by
  induction vs generalizing start dil with
  | nil => simp [writeInverse]
  | cons x vs ih =>
    obtain ⟨hx, hn⟩ := List.nodup_cons.1 hn
    obtain ⟨i1, i2⟩ := ih (start + 1) (dil.set x start) hn (by intro v hv; simp; exact hb v (by simp [hv]))
    constructor
    · intro u v huv
      cases u with
      | zero =>
        simp only [List.getElem?_cons_zero, Option.some.injEq] at huv
        subst huv
        rw [writeInverse, i2 _ hx]
        simp [hb x (by simp)]
      | succ u =>
        simp only [List.getElem?_cons_succ] at huv
        rw [writeInverse, i1 u v huv]
        congr 1
        omega
    · intro v hv
      simp only [List.mem_cons, not_or] at hv
      rw [writeInverse, i2 v hv.2, List.getElem?_set, if_neg (fun h => hv.1 h.symm)]

/-! The windows' offsets (20_memory.md R66, R67). -/

/-- Entry j of each window stands at its base plus 4*j. -/
theorem regionOf_window (j : Nat) (hj : j < 2048) :
    regionOf (BitVec.ofNat 16 (0x2000 + 4 * j)) = .window .prn j ∧
    regionOf (BitVec.ofNat 16 (0x4000 + 4 * j)) = .window .fis j ∧
    regionOf (BitVec.ofNat 16 (0x6000 + 4 * j)) = .window .ilv j ∧
    regionOf (BitVec.ofNat 16 (0x8000 + 4 * j)) = .window .dil j := by
  have e : ∀ b, b + 4 * j < 65536 → (BitVec.ofNat 16 (b + 4 * j)).toNat = b + 4 * j := by
    intro b hb; simp; omega
  refine ⟨?_, ?_, ?_, ?_⟩ <;> unfold regionOf <;> rw [e _ (by omega)]
  all_goals
    repeat (first | rw [if_pos (by omega)] | rw [if_neg (by omega)])
    congr; omega

/-- CMD stands at offset 0 alone. -/
theorem regionOf_eq_cmd {a : Addr} (h : regionOf a = .cmd) : a = 0x0000#16 := by
  by_contra h0
  have : a.toNat ≠ 0 := fun h' => h0 (BitVec.eq_of_toNat_eq h')
  unfold regionOf registerAt at h
  repeat' split at h
  all_goals simp_all

/-- What a read answers depends on STATUS, FAULT_INFO, the RAMs and the ROMs alone (20_memory.md R71, R72). -/
theorem readWord_congr {s t : State} (hs : t.status = s.status) (hf : t.faultInfo = s.faultInfo) (hm : t.mem = s.mem)
    (hr : t.rom = s.rom) (a : Addr) : readWord t a = readWord s a := by
  simp only [readWord, readConst, readWindow, hs, hf, hm, hr]

/-- Every step is the engine's, a reset, an answer of the port alone, or an aligned CMD write. -/
theorem step_moves {s t : State} (h : step s = .next t) :
    ((s.agenda = [] ∨ ∃ rest, s.agenda = .engine :: rest) ∧ ∃ rest, engineStep (setAgenda rest s) = .next t) ∨
    (∃ rest, s.agenda = .reset :: rest ∧ t = resetBlock (setAgenda rest s)) ∨
    (∃ r rest, t = respond r (setAgenda rest s)) ∨
    (∃ w rest, s.agenda = .host (.write 0x0000#16 w) :: rest ∧
      cmdWrite w (respond (.write .okay) (setAgenda rest s)) = .next t) := by
  rcases step_cases h with ⟨h0, he⟩ | ⟨rest, h0, he⟩ | ⟨rest, h0, rfl⟩ | ⟨rest, x, h0, he⟩
  · exact .inl ⟨.inl h0, [], by rw [← h0]; exact he⟩
  · exact .inl ⟨.inr ⟨rest, h0⟩, rest, he⟩
  · exact .inr (.inl ⟨rest, h0, rfl⟩)
  · cases x with
    | read a => rcases busRead_cases he with ⟨-, w, -, rfl⟩ | ⟨-, rfl⟩ <;> exact .inr (.inr (.inl ⟨_, _, rfl⟩))
    | write a v =>
      rcases busWrite_cases he with ⟨-, hr, h⟩ | ⟨-, -, rfl⟩ | ⟨-, rfl⟩
      · cases regionOf_eq_cmd hr
        exact .inr (.inr (.inr ⟨v, rest, h0, h⟩))
      · exact .inr (.inr (.inl ⟨_, _, rfl⟩))
      · exact .inr (.inr (.inl ⟨_, _, rfl⟩))

end Sys2Proof.Machine
end

