-- ==== Sys2Proof/Laws/PerInstr.lean ====
section
/-! SUPPORT. One lemma per command of each family of LAWS.json. Family Fields: the fields of the command's own word. -/

namespace Sys2Proof.Laws.Fields

open Sys2Proof

/-- The word of a command carries its opcode in 31:24, zeros in 23:3 and its mode operand in 2:0 (30_encoding.md R90,
R95). -/
def Statement (i : Instr) : Prop :=
  opField (encode i) = opcodeOf i ∧ rsvField (encode i) = 0#21 ∧ modeField (encode i) = modeOperandOf i

theorem nop : Statement .nop := by simp only [Statement]; decide

theorem derive (mode : BitVec 3) : Statement (.derive mode) := by simp only [Statement]; revert mode; decide

theorem selftest : Statement .selftest := by simp only [Statement]; decide

theorem clearFault : Statement .clearFault := by simp only [Statement]; decide

end Sys2Proof.Laws.Fields
end

