-- ==== Sys2Proof/Tests/CandidateRom.lean ====
section
/-! SUPPORT. The candidate ROM contents of 93_implementation_defined.md I1 to I3 and the default golden prefixes of
42_frequency_interleaver.md R185, for tests and witnesses only: general knowledge, not source-backed (00_scope.md R6). -/

namespace Sys2Proof.Tests

open Sys2Proof

/-- The rows of 41_prn_generator.md R146, tight, for a mode with K carriers: row r of K/32 with its (i, n). -/
def tightRows (K : Nat) (ins : List (Nat × Nat)) : List PrnRow :=
  ins.zipIdx.map fun x =>
    let kps : Int := if x.2 < K / 64 then 32 * (x.2 : Int) - (K / 2 : Nat) else 32 * ((x.2 : Int) - (K / 64 : Nat)) + 1
    { kMin := BitVec.ofInt 12 kps, kMax := BitVec.ofInt 12 (kps + 31), kAnchor := BitVec.ofInt 12 kps,
      i := BitVec.ofNat 2 x.1.1, n := BitVec.ofNat 2 x.1.2 }

/-- I2, mode 1: the (i, n) columns. -/
def inModeI : List (Nat × Nat) :=
  [(0, 1), (1, 2), (2, 0), (3, 1), (0, 3), (1, 2), (2, 2), (3, 3), (0, 2), (1, 1), (2, 2), (3, 3)] ++
  [(0, 1), (1, 2), (2, 3), (3, 3), (0, 2), (1, 2), (2, 2), (3, 1), (0, 1), (1, 3), (2, 1), (3, 2)] ++
  [(0, 3), (3, 1), (2, 1), (1, 1), (0, 2), (3, 2), (2, 1), (1, 0), (0, 2), (3, 2), (2, 3), (1, 3)] ++
  [(0, 0), (3, 2), (2, 1), (1, 3), (0, 3), (3, 3), (2, 3), (1, 0), (0, 3), (3, 0), (2, 1), (1, 1)]

/-- I2, mode 2. -/
def inModeII : List (Nat × Nat) :=
  [(0, 2), (1, 3), (2, 2), (3, 2), (0, 1), (1, 2), (2, 0), (1, 2), (0, 2), (3, 1), (2, 0), (1, 3)]

/-- I2, mode 3: the rows written out, k_min, k_max and k' in two's complement (the tests evaluate these). -/
def rowsModeIII : List PrnRow :=
  [⟨0xFA0#12, 0xFBF#12, 0xFA0#12, 0#2, 2#2⟩, ⟨0xFC0#12, 0xFDF#12, 0xFC0#12, 1#2, 3#2⟩,
   ⟨0xFE0#12, 0xFFF#12, 0xFE0#12, 2#2, 0#2⟩, ⟨0x001#12, 0x020#12, 0x001#12, 3#2, 2#2⟩,
   ⟨0x021#12, 0x040#12, 0x021#12, 2#2, 2#2⟩, ⟨0x041#12, 0x060#12, 0x041#12, 1#2, 2#2⟩]

/-- I2, mode 4. -/
def inModeIV : List (Nat × Nat) :=
  [(0, 0), (1, 1), (2, 1), (3, 2), (0, 2), (1, 2), (2, 0), (3, 3), (0, 3), (1, 1), (2, 3), (3, 2)] ++
  [(0, 0), (3, 1), (2, 0), (1, 2), (0, 0), (3, 1), (2, 2), (1, 2), (0, 2), (3, 1), (2, 3), (1, 0)]

/-- I3: PHASE_H. -/
def candidatePhaseH : PhaseTable :=
  #v[#v[0, 2, 0, 0, 0, 0, 1, 1, 2, 0, 0, 0, 2, 2, 1, 1, 0, 2, 0, 0, 0, 0, 1, 1, 2, 0, 0, 0, 2, 2, 1, 1],
     #v[0, 3, 2, 3, 0, 1, 3, 0, 2, 1, 2, 3, 2, 3, 3, 0, 0, 3, 2, 3, 0, 1, 3, 0, 2, 1, 2, 3, 2, 3, 3, 0],
     #v[0, 0, 0, 2, 0, 2, 1, 3, 2, 2, 0, 2, 2, 0, 1, 3, 0, 0, 0, 2, 0, 2, 1, 3, 2, 2, 0, 2, 2, 0, 1, 3],
     #v[0, 1, 2, 1, 0, 3, 3, 2, 2, 3, 2, 1, 2, 1, 3, 2, 0, 1, 2, 1, 0, 3, 3, 2, 2, 3, 2, 1, 2, 1, 3, 2]]

/-- I1, I2, I3 and the default golden prefixes. -/
def candidateRom : Rom where
  modeI := ⟨⟨76, 1536, 196608, 2656, 2552, 2048, 504⟩, tightRows 1536 inModeI, Config.defaultGolden .I⟩
  modeII := ⟨⟨76, 384, 49152, 664, 638, 512, 126⟩, tightRows 384 inModeII, Config.defaultGolden .II⟩
  modeIII := ⟨⟨153, 192, 49152, 345, 319, 256, 63⟩, rowsModeIII, Config.defaultGolden .III⟩
  modeIV := ⟨⟨76, 768, 98304, 1328, 1276, 1024, 252⟩, tightRows 768 inModeIV, Config.defaultGolden .IV⟩
  phaseH := candidatePhaseH

end Sys2Proof.Tests
end

