-- ==== Sys2Proof/Tests/Slice0.lean ====
section
/-! SUPPORT. Tests whose expected values come from the spec's encodings and from 95_test_vectors.md, and one witness for every
obligation that has hypotheses. -/

namespace Sys2Proof.Tests

open Sys2Proof Sys2Proof.Machine

/-! ## Helpers -/

/-- The next state of an outcome, if there is one. -/
def nextOf : Result → Option State
  | .next t => some t
  | .fault _ => none
  | .refused _ => none

/-- STATUS and FAULT_INFO after an outcome. -/
def recordAfter (r : Result) : Option (Word × Word) := (nextOf r).map (fun t => (statusWord t.status, t.faultInfo))

/-- The idle block after a passing boot, STATUS = 0x00000010 (95_test_vectors.md section 2). -/
def idleBlock (rom : Rom) (agenda : List Event) : State where
  status :=
    { busy := false, valid := false, fault := false, overrun := false, romOk := true, activeMode := 0#3,
      cause := .noFault }
  faultInfo := 0#32
  mem := Memory.absent
  eng := { op := .idle, mode := 0#3, left := 0 }
  rom := rom
  agenda := agenda
  resp := none
  draws := 1

/-- The same block with a command running and left engine steps before its completion step. -/
def runningBlock (rom : Rom) (op : EngOp) (f : BitVec 3) (left : Nat) (agenda : List Event) : State :=
  { idleBlock rom agenda with
    status := { (idleBlock rom agenda).status with busy := true }
    eng := { op := op, mode := f, left := left } }

/-- The block with a fault recorded, ROM_OK and OVERRUN set: STATUS = 0x0002001C (95_test_vectors.md section 2.4). -/
def faultedBlock (agenda : List Event) : State :=
  { idleBlock candidateRom agenda with
    status := { busy := false, valid := false, fault := true, overrun := true, romOk := true, activeMode := 0#3,
                cause := .invalidMode }
    faultInfo := 5#32 }

/-- The candidate ROM with the record of mode III changed. -/
def withModeIII (f : ModeRom → ModeRom) : Rom := { candidateRom with modeIII := f candidateRom.modeIII }

/-- Mode 3 with cp_length 62 (95_test_vectors.md section 2.4). -/
def brokenRom : Rom := withModeIII fun r => { r with consts := { r.consts with cpLength := 62#20 } }

/-- Mode III with the first PRN row changed. -/
def withRow0 (f : PrnRow → PrnRow) : Rom := withModeIII fun r => { r with prnRows := r.prnRows.modify 0 f }

/-- N and K of mode III changed, with K/32 rows (95_test_vectors.md, V-FI-2 and V-FI-3). -/
def withNK (N K : BitVec 20) : Rom := withModeIII fun r =>
  { r with
    consts := { r.consts with fftLength := N, numCarriers := K }
    prnRows := r.prnRows.take (K.toNat / 32) }

/-- A word written to CMD. -/
def cmdTo (w : Word) : Event := .host (.write 0x0000#16 w)

/-! ## Well-formedness: each check refuses a term that breaks it -/

theorem test_wellFormed_refuses_operand_eight : (AsmCommand.derive 8).wellFormed = false := by decide

theorem test_wellFormed_takes_operand_seven : (AsmCommand.derive 7).wellFormed = true := by decide

theorem test_admitted_candidate : candidateRom.admitted = true ∧ candidateRom.agreesWithSource = true := by decide +kernel

theorem test_admitted_refuses_zero_field :
    (withModeIII fun r => { r with consts := { r.consts with cpLength := 0#20 } }).admitted = false := by decide +kernel

theorem test_admitted_refuses_fft_not_multiple_of_eight :
    (withModeIII fun r => { r with consts := { r.consts with fftLength := 260#20 } }).admitted = false := by decide +kernel

theorem test_admitted_refuses_fft_above_2048 :
    (withModeIII fun r => { r with consts := { r.consts with fftLength := 2056#20 } }).admitted = false := by
  decide +kernel

theorem test_admitted_refuses_carriers_not_multiple_of_64 : (withNK 256#20 96#20).admitted = false := by decide +kernel

theorem test_admitted_refuses_carriers_above_2048 :
    (withModeIII fun r =>
      { r with
        consts := { r.consts with numCarriers := 2112#20 }
        prnRows := List.replicate 66 default }).admitted = false := by decide +kernel

theorem test_admitted_refuses_missing_row :
    (withModeIII fun r => { r with prnRows := r.prnRows.tail }).admitted = false := by decide +kernel

theorem test_admitted_refuses_long_golden :
    (withModeIII fun r => { r with golden := List.replicate 11 0 }).admitted = false := by decide +kernel

theorem test_admitted_refuses_short_golden_of_mode_I :
    ({ candidateRom with modeI := { candidateRom.modeI with golden := [] } } : Rom).admitted = false := by decide +kernel

theorem test_source_contents_refuse_another_K1 :
    ({ candidateRom with modeI := candidateRom.modeII } : Rom).agreesWithSource = false := by decide +kernel

/-! ## Decoding: words written out from 30_encoding.md R90 and R95 as OP ++ RSV ++ MODE -/

theorem test_decode_nop : decode (0b00000000#8 ++ 0b000000000000000000000#21 ++ 0b000#3) = .command .nop := by decide

theorem test_decode_derive :
    decode (0b00000001#8 ++ 0b000000000000000000000#21 ++ 0b011#3) = .command (.derive 3#3) := by decide

theorem test_decode_selftest :
    decode (0b00000010#8 ++ 0b000000000000000000000#21 ++ 0b000#3) = .command .selftest := by decide

theorem test_decode_clearFault :
    decode (0b00000011#8 ++ 0b000000000000000000000#21 ++ 0b000#3) = .command .clearFault := by decide

theorem test_decode_derive_invalid_mode : decode 0x01000007#32 = .command (.derive 7#3) := by decide

/-- 95_test_vectors.md section 2.1: every illegal word of the table. -/
theorem test_decode_illegal :
    [0x00000001#32, 0x00000008#32, 0x01000008#32, 0x01000009#32, 0x01800001#32, 0x02000001#32, 0x03000004#32,
      0x04000000#32, 0xFF000000#32, 0xFFFFFFFF#32].map decode =
    [.illegal .modeNonzero, .illegal .reservedNonzero, .illegal .reservedNonzero, .illegal .reservedNonzero,
      .illegal .reservedNonzero, .illegal .modeNonzero, .illegal .modeNonzero, .illegal .unknownOpcode,
      .illegal .unknownOpcode, .illegal .unknownOpcode] := by decide

/-- The lanes of DERIVE 1, lowest address first (20_memory.md R62). -/
theorem test_decode_lanes : decodeBytes [0x01#8, 0x00#8, 0x00#8, 0x01#8, 0xAA#8] =
    some (.command (.derive 1#3), [0xAA#8]) := by decide

theorem test_decodeTableWord : decodeTableWord 32 0x03000000 = some .clearFault := by decide

/-- The lines of 30_encoding.md R99. -/
theorem test_script_lines :
    lineTransactions (.issue (.deriveAlias .IV)) = some [.write 0x0000#16 0x01000004#32] ∧
    lineTransactions (.issue (.derive 9)) = none ∧ lineTransactions .waitIdle = some [.read 0x0004#16] ∧
    lineRepeats .waitIdle 0x00000011#32 = true ∧ lineRepeats .waitIdle 0x00000010#32 = false := by decide

/-! ## One step of each command (95_test_vectors.md sections 2.1, 2.3, 2.4) -/

theorem test_step_nop :
    nextOf (step (faultedBlock [cmdTo 0x00000000#32])) = some { faultedBlock [] with resp := some (.write .okay) } := by
  decide +kernel

theorem test_exec_derive_invalid_mode :
    recordAfter (exec (.derive 5#3) (idleBlock candidateRom [])) = some (0x00020014#32, 0x00000005#32) := by
  decide +kernel

theorem test_exec_derive_accepted :
    recordAfter (exec (.derive 3#3) (idleBlock candidateRom [])) = some (0x00000011#32, 0x00000000#32) := by
  decide +kernel

theorem test_exec_selftest :
    recordAfter (exec .selftest (faultedBlock [])) = some (0x00000019#32, 0x00000000#32) := by decide +kernel

theorem test_selftest_completion_reports_mode_3 :
    recordAfter (step (runningBlock brokenRom .selftest 0#3 0 [])) = some (0x00030004#32, 0x00000103#32) := by
  decide +kernel

theorem test_exec_clearFault :
    recordAfter (exec .clearFault (faultedBlock [])) = some (0x00000010#32, 0x00000000#32) := by decide +kernel

theorem test_step_illegal_word :
    recordAfter (step (idleBlock candidateRom [cmdTo 0x01000009#32])) = some (0x00010014#32, 0x01000009#32) := by
  decide +kernel

theorem test_step_misaligned_read :
    (nextOf (step (idleBlock candidateRom [.host (.read 0x0006#16)]))).map (·.resp) =
      some (some (.read .busError 0x00000000#32)) := by decide +kernel

/-- The STATUS words of 95_test_vectors.md section 2.2 that record causes 4 to 8, and the codes 9 and 10 of 60_exceptions.md
R210. -/
theorem test_cause_codes :
    [Cause.prnRowRange, .prnKprime, .fiCount, .fiDuplicate, .fiGolden, .fiArray, .fiRoundtrip].map
      (fun c => statusWord ⟨false, false, true, false, true, 0#3, c⟩) =
    [0x00040014#32, 0x00050014#32, 0x00060014#32, 0x00070014#32, 0x00080014#32, 0x00090014#32, 0x000A0014#32] := by decide

/-- The codes of 95_test_vectors.md section 2.6 (candidate ROM, mode 3) for k = -96, -95, -33, -1, 1, 96. -/
theorem test_prn_codes :
    (prnStage candidateRom .III).toOption.map (fun out => [0, 1, 63, 95, 96, 191].map (fun j => out[j]?)) =
      some [some 2#2, some 0#2, some 3#2, some 3#2, some 2#2, some 2#2] := by decide +kernel

/-- 95_test_vectors.md, V-FI-3 with the PRN structure of mode III: N = 88 and K = 64 repeat -23 at j = 29. -/
theorem test_duplicate_check :
    fiChecks 64 [] (survivors 88) = .error ⟨.fiDuplicate, 0xFFFFFFE9#32⟩ := by
  have h : firstBad 64 (repeatsAt (survivors 88)) = some 29 := by decide +kernel
  have hl : (survivors 88).length = 64 := by decide +kernel
  have hv : (survivors 88).getD 29 0 = -23 := by decide +kernel
  simp only [fiChecks, countCheck, hl, duplicateCheck, h, hv]
  decide

/-! ## A block that holds the snapshot of mode III -/

theorem derivation_modeIII : ∃ p, derivation candidateRom .III = .ok p := by
  have h : (derivation candidateRom .III).toOption.isSome = true := by decide +kernel
  cases hd : derivation candidateRom .III with
  | ok p => exact ⟨p, rfl⟩
  | error r => rw [hd] at h; cases h

/-- The completion step of DERIVE 3 over the candidate ROM. -/
theorem completion_modeIII (s : State) (he : s.eng = ⟨.derive, 3#3, 0⟩) (hr : s.rom = candidateRom) :
    ∃ p, derivation candidateRom .III = .ok p ∧
      engineStep s = .next (finishEngine (setSnapshot 3#3 (commitRams p s))) := by
  obtain ⟨p, hp⟩ := derivation_modeIII
  refine ⟨p, hp, ?_⟩
  have hm : modeOfField s.eng.mode = some .III := by rw [he]; rfl
  rw [engineStep_derive (by rw [he]) (by rw [he]) (hr ▸ test_admitted_candidate.1),
    completeDerive_ok hm (by rw [hr]; exact hp), he]

/-- It ends with STATUS = 0x00000312 (95_test_vectors.md section 2.2). -/
theorem test_derive_completion :
    ∃ t, step (runningBlock candidateRom .derive 3#3 0 []) = .next t ∧ statusWord t.status = 0x00000312#32 := by
  obtain ⟨p, -, h⟩ := completion_modeIII (runningBlock candidateRom .derive 3#3 0 []) rfl rfl
  refine ⟨_, (step_of_nil rfl).trans h, ?_⟩
  show statusWord ⟨false, true, false, false, true, 3#3, .noFault⟩ = 0x00000312#32
  decide

/-- The block after DERIVE 3, its RAMs holding p. -/
def doneBlock (p : Snapshot) (agenda : List Event) : State :=
  { idleBlock candidateRom agenda with
    status := { (idleBlock candidateRom agenda).status with valid := true, activeMode := 3#3 }
    mem := commitMemory p Memory.absent }

theorem constCheck_candidateRom : constCheck candidateRom = none := by decide +kernel

theorem doneBlock_inv {p : Snapshot} (hp : derivation candidateRom .III = .ok p) (agenda : List Event) :
    (doneBlock p agenda).Inv := by
  obtain ⟨h1, h2, h3, h4⟩ := derivation_lengths test_admitted_candidate.1 hp
  have hK : carriersOf candidateRom .III = 192 := by decide +kernel
  refine ⟨by simp [doneBlock, idleBlock], by simp [doneBlock, idleBlock], by simp [doneBlock, idleBlock],
    by simp [doneBlock, idleBlock], by simp [doneBlock, idleBlock],
    fun _ => ⟨test_admitted_candidate.1, constCheck_candidateRom⟩, fun _ => ⟨rfl, .III, p, rfl, hp, ?_⟩, ?_⟩
  · intro j hj
    simp only [doneBlock, commitMemory, ramRead_ramCommit, List.length_map]
    rw [if_pos hj, if_pos (by omega), if_pos (by omega), if_pos (by omega)]
    exact ⟨rfl, rfl, rfl, rfl⟩
  · refine wf_commitMemory p Memory.absent Memory.wf_absent ?_ ?_ ?_ ?_ <;> simp only [Config.windowDepth] <;> omega

theorem idleBlock_inv (agenda : List Event) : (idleBlock candidateRom agenda).Inv :=
  ⟨by simp [idleBlock], by simp [idleBlock], by simp [idleBlock], by simp [idleBlock], by simp [idleBlock],
    fun _ => ⟨test_admitted_candidate.1, constCheck_candidateRom⟩, by simp [idleBlock], Memory.wf_absent⟩

theorem runningBlock_inv (left : Nat) (agenda : List Event) : (runningBlock candidateRom .derive 3#3 left agenda).Inv :=
  ⟨by simp [runningBlock], by simp [runningBlock, idleBlock], by simp [runningBlock, idleBlock],
    by simp [runningBlock, idleBlock], fun _ => ⟨rfl, rfl, rfl⟩,
    fun _ => ⟨test_admitted_candidate.1, constCheck_candidateRom⟩, by simp [runningBlock, idleBlock], Memory.wf_absent⟩

/-! ## Witnesses: concrete states and operands that meet the hypotheses of each obligation -/

theorem witness_IllegalWordsAreExactlyTheUnlistedOnes :
    (∀ w ∈ [0x04000000#32, 0xFFFFFFFF#32, 0x00000008#32, 0x00000001#32, 0x03000007#32], ∃ why, decode w = .illegal why) ∧
    (idleBlock candidateRom [cmdTo 0x04000000#32]).agenda = .host (.write 0x0000#16 0x04000000#32) :: [] ∧
    (idleBlock candidateRom [cmdTo 0x04000000#32]).status.busy = false ∧
    (runningBlock candidateRom .selftest 0#3 1 [cmdTo 0x04000000#32]).agenda =
      .host (.write 0x0000#16 0x04000000#32) :: [] ∧
    (runningBlock candidateRom .selftest 0#3 1 [cmdTo 0x04000000#32]).status.busy = true := by
  refine ⟨?_, rfl, rfl, rfl, rfl⟩
  simp only [List.mem_cons, List.not_mem_nil, or_false, forall_eq_or_imp, forall_eq]
  exact ⟨⟨.unknownOpcode, by decide⟩, ⟨.unknownOpcode, by decide⟩, ⟨.reservedNonzero, by decide⟩,
    ⟨.modeNonzero, by decide⟩, ⟨.modeNonzero, by decide⟩⟩

theorem witness_InvalidModeWordsAreDeriveCommands :
    ∃ m : BitVec 3, (m = 0#3 ∨ m = 5#3 ∨ m = 6#3 ∨ m = 7#3) ∧ m = 5#3 := ⟨5#3, by decide, rfl⟩

theorem witness_AssemblerTakesZeroToSeven : (7 : Nat) ≤ 7 ∧ 7 < (8 : Nat) := by decide

theorem witness_CmdWriteRunsTheDecodedCommand :
    ((runningBlock candidateRom .selftest 0#3 1 [cmdTo 0x02000000#32]).agenda =
        .host (.write 0x0000#16 0x02000000#32) :: [] ∧
      (runningBlock candidateRom .selftest 0#3 1 [cmdTo 0x02000000#32]).status.busy = true) ∧
    ((idleBlock candidateRom [cmdTo 0x02000000#32]).agenda = .host (.write 0x0000#16 0x02000000#32) :: [] ∧
      (idleBlock candidateRom [cmdTo 0x02000000#32]).status.busy = false ∧ decode 0x02000000#32 = .command .selftest) ∧
    ((idleBlock candidateRom [cmdTo 0x04000000#32]).agenda = .host (.write 0x0000#16 0x04000000#32) :: [] ∧
      (idleBlock candidateRom [cmdTo 0x04000000#32]).status.busy = false ∧
      decode 0x04000000#32 = .illegal .unknownOpcode) :=
  ⟨⟨rfl, rfl⟩, ⟨rfl, rfl, by decide⟩, ⟨rfl, rfl, by decide⟩⟩

theorem witness_FetchWordStepRunsTheCommand : decode 0x01000002#32 = .command (.derive 2#3) := by decide

theorem witness_BusyCmdWriteOnlySetsOverrun :
    (runningBlock candidateRom .derive 3#3 1 [cmdTo 0x02000000#32]).agenda =
      .host (.write 0x0000#16 0x02000000#32) :: [] ∧
    (runningBlock candidateRom .derive 3#3 1 [cmdTo 0x02000000#32]).status.busy = true := ⟨rfl, rfl⟩

theorem witness_MisalignedTransactionsHaveNoEffect :
    (0x0001#16).extractLsb' 0 2 ≠ 0#2 ∧ (0xFFFF#16).extractLsb' 0 2 ≠ 0#2 ∧
    (idleBlock candidateRom [.host (.read 0x0001#16)]).agenda = .host (.read 0x0001#16) :: [] ∧
    (idleBlock candidateRom [.host (.write 0xFFFF#16 1#32)]).agenda = .host (.write 0xFFFF#16 1#32) :: [] :=
  ⟨by decide, by decide, rfl, rfl⟩

theorem witness_WritesOutsideCmdAreIgnored :
    (0x0004#16).toNat % 4 = 0 ∧ 0x0004#16 ≠ 0x0000#16 ∧ (0xFFFC#16).toNat % 4 = 0 ∧ 0xFFFC#16 ≠ 0x0000#16 ∧
    (idleBlock candidateRom [.host (.write 0x0004#16 1#32)]).agenda = .host (.write 0x0004#16 1#32) :: [] ∧
    (idleBlock candidateRom [.host (.write 0xFFFC#16 1#32)]).agenda = .host (.write 0xFFFC#16 1#32) :: [] :=
  ⟨by decide, by decide, by decide, by decide, rfl, rfl⟩

/-- What may stand between two reads of one address: another read, an ignored write, an engine turn. -/
def betweenReads : List Event := [.host (.read 0x0008#16), .host (.write 0x0004#16 1#32), .engine]

/-- One engine step left: the boundary, its one turn leaves ENG.LEFT = 0 and completes nothing; and an idle engine. -/
theorem witness_ReadsHaveNoSideEffect :
    (∃ s t u v, s.agenda = .host (.read 0x0004#16) :: (betweenReads ++ .host (.read 0x0004#16) :: []) ∧
      (∀ e ∈ betweenReads, e.quiet = true) ∧ engineTurns betweenReads ≤ s.eng.left ∧ s.eng.left = 1 ∧
      step s = .next t ∧ runMoves betweenReads.length t = .next u ∧ step u = .next v) ∧
    (∃ s t u v, s.agenda = .host (.read 0x0004#16) :: (betweenReads ++ .host (.read 0x0004#16) :: []) ∧
      s.eng.op = .idle ∧ step s = .next t ∧ runMoves betweenReads.length t = .next u ∧ step u = .next v) :=
  ⟨⟨runningBlock candidateRom .derive 3#3 1 (.host (.read 0x0004#16) :: (betweenReads ++ [.host (.read 0x0004#16)])),
      _, _, _, rfl, by decide, by decide, rfl, rfl, rfl, rfl⟩,
    ⟨idleBlock candidateRom (.host (.read 0x0004#16) :: (betweenReads ++ [.host (.read 0x0004#16)])),
      _, _, _, rfl, rfl, rfl, rfl, rfl⟩⟩

theorem witness_BusErrorOnlyForMisalignment :
    ((0xFFFC#16).toNat % 4 = 0 ∧ (idleBlock candidateRom [.host (.read 0xFFFC#16)]).agenda = .host (.read 0xFFFC#16) :: [] ∧
      readWord (idleBlock candidateRom [.host (.read 0xFFFC#16)]) 0xFFFC#16 = .ok 0x00000000#32) ∧
    (∃ s : State, s.Inv ∧ s.status.valid = true) ∧
    ((0x4002#16).toNat % 4 ≠ 0 ∧
      (idleBlock candidateRom [.host (.read 0x4002#16)]).agenda = .host (.read 0x4002#16) :: []) ∧
    (idleBlock candidateRom [cmdTo 0x02000000#32]).agenda = .host (.write 0x0000#16 0x02000000#32) :: [] ∧
    (idleBlock candidateRom [.host (.write 0x0001#16 1#32)]).agenda = .host (.write 0x0001#16 1#32) :: [] := by
  obtain ⟨p, hp⟩ := derivation_modeIII
  exact ⟨⟨by decide, rfl, rfl⟩, ⟨doneBlock p [], doneBlock_inv hp _, rfl⟩, ⟨by decide, rfl⟩, rfl, rfl⟩

/-- One state for each cause: the hypotheses of StatusWordHasTheSpecifiedFields's clauses. -/
theorem witness_StatusWordHasTheSpecifiedFields (c : Cause) :
    ∃ s : State, s.status.cause = c :=
  ⟨{ idleBlock candidateRom [] with status := ⟨false, false, true, false, true, 0#3, c⟩ }, rfl⟩

theorem witness_StatusReadShowsTheAcceptance :
    (idleBlock candidateRom [cmdTo 0x01000003#32, .host (.read 0x0004#16)]).agenda =
      .host (.write 0x0000#16 0x01000003#32) :: .host (.read 0x0004#16) :: [] := rfl

theorem witness_RegisterBlockReads :
    (0x0000#16).toNat % 4 = 0 ∧ (0x0000#16).toNat = 0x0000 ∧ (0x0008#16).toNat % 4 = 0 ∧ (0x0008#16).toNat = 0x0008 ∧
    (0x000C#16).toNat % 4 = 0 ∧ (0x000C#16).toNat = 0x000C ∧
    ((0x002C#16).toNat % 4 = 0 ∧ 0x002C ≤ (0x002C#16).toNat) ∧ ((0x00FC#16).toNat % 4 = 0 ∧ (0x00FC#16).toNat < 0x0100) ∧
    ((0x0100#16).toNat % 4 = 0 ∧ 0x0100 ≤ (0x0100#16).toNat) ∧ ((0x1FFC#16).toNat % 4 = 0 ∧ (0x1FFC#16).toNat < 0x2000) ∧
    ((0xA000#16).toNat % 4 = 0 ∧ 0xA000 ≤ (0xA000#16).toNat) ∧ ((0xFFFC#16).toNat % 4 = 0 ∧ 0xA000 ≤ (0xFFFC#16).toNat) := by
  decide

theorem witness_ConstantRegistersViewTheRom :
    (∃ (s : State) (m : Mode), s.status.valid = true ∧ s.status.activeMode.toNat = m.number) ∧
    ((idleBlock candidateRom []).status.valid = false ∧ (0x0010#16).toNat % 4 = 0 ∧ (0x0028#16).toNat % 4 = 0 ∧
      0x0010 ≤ (0x0010#16).toNat ∧ (0x0028#16).toNat ≤ 0x0028) :=
  ⟨⟨doneBlock ⟨[], [], [], []⟩ [], .III, rfl, by decide⟩, by decide⟩

theorem witness_snapshot_entry (j : Nat) (hj : j = 0 ∨ j = 191) :
    ∃ (s : State) (m : Mode), s.Inv ∧ s.status.valid = true ∧ modeOfField s.status.activeMode = some m ∧
      j < (s.rom.mode m).consts.numCarriers.toNat ∧ (∃ v, ramRead s.mem.prn j = some v) := by
  obtain ⟨p, hp⟩ := derivation_modeIII
  have hl := (derivation_lengths test_admitted_candidate.1 hp).1
  have hK : carriersOf candidateRom .III = 192 := by decide +kernel
  have hj' : j < p.prn.length := by omega
  refine ⟨doneBlock p [], .III, doneBlock_inv hp [], rfl, rfl, ?_, ?_⟩
  · have e : (candidateRom.mode .III).consts.numCarriers.toNat = 192 := hK
    show j < (candidateRom.mode .III).consts.numCarriers.toNat
    omega
  · exact ⟨p.prn[j], by simp only [doneBlock, commitMemory, ramRead_ramCommit, if_pos hj', List.getElem?_eq_getElem hj']⟩

theorem witness_WindowsReadTheirRams :
    (∃ (s : State) (m : Mode) (v : BitVec 2), s.status.valid = true ∧ modeOfField s.status.activeMode = some m ∧
      191 < (s.rom.mode m).consts.numCarriers.toNat ∧ ramRead s.mem.prn 191 = some v) ∧
    (∃ s : State, s.status.valid = false) ∧
    (∃ (s : State) (m : Mode), s.status.valid = true ∧ modeOfField s.status.activeMode = some m ∧
      (s.rom.mode m).consts.numCarriers.toNat ≤ 192) := by
  obtain ⟨s, m, -, h1, h2, h3, v, h4⟩ := witness_snapshot_entry 191 (.inr rfl)
  exact ⟨⟨s, m, v, h1, h2, h3, h4⟩, ⟨idleBlock candidateRom [], rfl⟩,
    ⟨doneBlock ⟨[], [], [], []⟩ [], .III, rfl, rfl, by decide +kernel⟩⟩

theorem witness_PrnWindowShowsOnlyTheFourUnitWords :
    ∃ (s : State) (m : Mode), s.Inv ∧ s.status.valid = true ∧ modeOfField s.status.activeMode = some m ∧
      191 < (s.rom.mode m).consts.numCarriers.toNat := by
  obtain ⟨s, m, h0, h1, h2, h3, -⟩ := witness_snapshot_entry 191 (.inr rfl)
  exact ⟨s, m, h0, h1, h2, h3⟩

/-- The hypotheses of IndexWindowsShowIndicesBelowK, InterleavingWindowsAreInversePermutations and
FisRamHoldsTheSurvivorSequence. -/
theorem witness_IndexWindowsShowIndicesBelowK :
    ∃ (s : State) (m : Mode), s.Inv ∧ s.status.valid = true ∧ modeOfField s.status.activeMode = some m ∧
      0 < (s.rom.mode m).consts.numCarriers.toNat := by
  obtain ⟨s, m, h0, h1, h2, h3, -⟩ := witness_snapshot_entry 0 (.inl rfl)
  exact ⟨s, m, h0, h1, h2, h3⟩

theorem witness_HiddenRamContentsAreUnobservable :
    (∃ s : State, s.status.valid = false ∧ s.mem ≠ ⟨[(0, 1#2)], [], [], []⟩) ∧
    (∃ (s : State) (mem : Memory) (m : Mode), modeOfField s.status.activeMode = some m ∧ mem ≠ s.mem ∧
      ∀ j, j < (s.rom.mode m).consts.numCarriers.toNat →
        ramRead mem.prn j = ramRead s.mem.prn j ∧ ramRead mem.fis j = ramRead s.mem.fis j ∧
        ramRead mem.ilv j = ramRead s.mem.ilv j ∧ ramRead mem.dil j = ramRead s.mem.dil j) := by
  refine ⟨⟨idleBlock candidateRom [], rfl, by decide⟩,
    ⟨doneBlock ⟨[], [], [], []⟩ [], ⟨[(192, 1#2)], [], [], []⟩, .III, rfl, by decide, fun j hj => ?_⟩⟩
  have hK : (candidateRom.mode .III).consts.numCarriers.toNat = 192 := by decide +kernel
  have hj' : j < 192 := hK ▸ hj
  have hne : ¬ (192 = j) := by omega
  refine ⟨?_, rfl, rfl, rfl⟩
  rw [ramRead_cons, if_neg hne]
  rfl

theorem witness_NopChangesNothing :
    opField 0x00000008#32 = 0x00#8 ∧ 0x00000008#32 ≠ 0x00000000#32 ∧
    (runningBlock candidateRom .selftest 0#3 1 [cmdTo 0x00000000#32]).agenda =
      .host (.write 0x0000#16 0x00000000#32) :: [] ∧
    (runningBlock candidateRom .selftest 0#3 1 [cmdTo 0x00000000#32]).status.busy = true :=
  ⟨by decide, by decide, rfl, rfl⟩

theorem witness_ConstCheckReportsTheFirstFailingIdentity :
    (∀ m' : Mode, m'.number < Mode.number .III →
      frameIdentity (brokenRom.mode m').consts ∧ symbolIdentity (brokenRom.mode m').consts) ∧
    frameIdentity (brokenRom.mode .III).consts ∧ ¬symbolIdentity (brokenRom.mode .III).consts ∧
    ¬frameIdentity
      ((withModeIII fun r => { r with consts := { r.consts with nsLength := 344#20 } }).mode .III).consts := by
  refine ⟨fun m' h => ?_, by unfold frameIdentity; decide +kernel, by unfold symbolIdentity; decide +kernel,
    by unfold frameIdentity; decide +kernel⟩
  cases m' <;> first | (exact absurd h (by decide)) | (unfold frameIdentity symbolIdentity; decide +kernel)

/-- Both turns of the engine: the agenda exhausted, and host moves still to come. -/
theorem witness_SelftestCompletion :
    (completes .selftest (runningBlock candidateRom .selftest 0#3 0 []) ∧ candidateRom.admitted = true ∧
      constCheck candidateRom = none) ∧
    (completes .selftest (runningBlock brokenRom .selftest 0#3 0 [.engine, cmdTo 0x00000000#32]) ∧
      brokenRom.admitted = true ∧ constCheck brokenRom = some ⟨.constTable, 0x00000103#32⟩) :=
  ⟨⟨⟨rfl, rfl, .inl rfl⟩, test_admitted_candidate.1, constCheck_candidateRom⟩,
    ⟨⟨rfl, rfl, .inr ⟨_, rfl⟩⟩, by decide +kernel, by decide +kernel⟩⟩

theorem witness_DeriveAcceptance :
    ¬(1 ≤ (0#3).toNat ∧ (0#3).toNat ≤ 4) ∧ ¬(1 ≤ (5#3).toNat ∧ (5#3).toNat ≤ 4) ∧
    (1 ≤ (1#3).toNat ∧ (4#3).toNat ≤ 4) ∧ (idleBlock candidateRom []).status.romOk = true ∧
    (State.afterReset candidateRom 0 []).status.romOk = false := ⟨by decide, by decide, by decide, rfl, rfl⟩

theorem witness_DeriveCompletionCommitsTheSnapshot :
    (∃ (out : List PhaseCode) (f : FiResult), prnStage candidateRom .III = .ok out ∧ fiStage candidateRom .III = .ok f) ∧
    (∃ (s : State) (m : Mode) (p : Snapshot), completes .derive s ∧ s.agenda = [] ∧ s.rom.admitted = true ∧
      s.eng.mode.toNat = m.number ∧ derivation s.rom m = .ok p) ∧
    (∃ (s : State) (m : Mode) (p : Snapshot), completes .derive s ∧ s.agenda ≠ [] ∧ s.rom.admitted = true ∧
      s.eng.mode.toNat = m.number ∧ derivation s.rom m = .ok p) := by
  obtain ⟨p, hp⟩ := derivation_modeIII
  exact ⟨⟨p.prn, _, derivation_ok hp⟩,
    ⟨runningBlock candidateRom .derive 3#3 0 [], .III, p, ⟨rfl, rfl, .inl rfl⟩, rfl, test_admitted_candidate.1, rfl, hp⟩,
    ⟨runningBlock candidateRom .derive 3#3 0 [.engine, .host (.read 0x0004#16)], .III, p, ⟨rfl, rfl, .inr ⟨_, rfl⟩⟩,
      by decide, test_admitted_candidate.1, rfl, hp⟩⟩

/-- Row 0 of mode III with k_min = -95: the first carrier, -96, fails the range check. -/
def rangeRom : Rom := withRow0 fun r => { r with kMin := BitVec.ofInt 12 (-95) }

/-- Row 0 of mode III with stored k' = -95: the first carrier fails the anchor check. -/
def anchorRom : Rom := withRow0 fun r => { r with kAnchor := BitVec.ofInt 12 (-95) }

theorem prnStage_fails_outside_range : prnStage rangeRom .III = .error ⟨.prnRowRange, 0xFFFFFFA0#32⟩ := by
  have h : prnCarrier rangeRom.modeIII.prnRows rangeRom.phaseH 192 (-96) = .error ⟨.prnRowRange, 0xFFFFFFA0#32⟩ := by
    decide +kernel
  have hK : carriersOf rangeRom .III = 192 := by decide +kernel
  rw [prnStage, hK]
  exact prnWalk_error.2 ⟨[], -96, (carrierOrder 192).tail, by decide +kernel, by simp, h⟩

/-- The candidate ROM with GOLDEN[3] = [0]: the PRN stage passes and the golden check fails at index 0. -/
def goldenRom : Rom := withModeIII fun r => { r with golden := [0] }

theorem fiStage_fails_golden : fiStage goldenRom .III = .error ⟨.fiGolden, 0x00000000#32⟩ := by
  have hK : carriersOf goldenRom .III = 192 := by decide +kernel
  have hN : fftLengthOf goldenRom .III = 256 := by decide +kernel
  have hl : (survivors 256).length = 192 := by decide +kernel
  have hd : firstBad 192 (repeatsAt (survivors 256)) = none := by decide +kernel
  have hg : goldenCheck (goldenRom.mode .III).golden (survivors 256) = some ⟨.fiGolden, 0x00000000#32⟩ := by
    decide +kernel
  simp only [fiStage, hK, hN, fiChecks, countCheck, hl, duplicateCheck, hd, hg, ne_eq, not_true_eq_false, if_false]

theorem witness_FaultingDeriveLeavesNoSnapshot :
    (∃ r, prnStage rangeRom .III = .error r) ∧
    (∃ out r, prnStage goldenRom .III = .ok out ∧ fiStage goldenRom .III = .error r) ∧
    (∃ (s : State) (m : Mode) (r : Raise), completes .derive s ∧ s.agenda ≠ [] ∧ s.rom.admitted = true ∧
      s.eng.mode.toNat = m.number ∧ derivation s.rom m = .error r) := by
  refine ⟨⟨_, prnStage_fails_outside_range⟩, ?_, ?_⟩
  · obtain ⟨p, hp⟩ := derivation_modeIII
    exact ⟨p.prn, _, (derivation_ok hp).1, fiStage_fails_golden⟩
  · exact ⟨runningBlock rangeRom .derive 3#3 0 [.engine, .host (.read 0x0004#16)], .III, _, ⟨rfl, rfl, .inr ⟨_, rfl⟩⟩,
      by decide, by decide +kernel, rfl, by rw [show (runningBlock rangeRom .derive 3#3 0
        [.engine, .host (.read 0x0004#16)]).rom = rangeRom from rfl, derivation, prnStage_fails_outside_range]⟩

theorem witness_IllegalCommandTakesTheFault :
    decode 0xFF000000#32 = .illegal .unknownOpcode ∧
    (idleBlock candidateRom [cmdTo 0xFF000000#32]).status.busy = false ∧
    (idleBlock candidateRom [cmdTo 0xFF000000#32]).agenda = .host (.write 0x0000#16 0xFF000000#32) :: [] :=
  ⟨by decide, rfl, rfl⟩

theorem witness_CommandsChangeOnlyTheirOwnState :
    Instr.nop ≠ .clearFault ∧ (∀ f, Instr.selftest ≠ .derive f) ∧ (Instr.nop = .nop ∨ Instr.nop = .clearFault) := by
  refine ⟨by decide, fun f => by simp, .inl rfl⟩

theorem witness_carriers :
    64 % 64 = 0 ∧ (0 : Nat) < 64 ∧ (-32 : Int) ∈ carrierOrder 64 ∧ (32 : Int) ∈ carrierOrder 64 ∧
    (carrierOrder 64)[0]? = some (-32) ∧ (carrierOrder 64)[63]? = some 32 := by decide

theorem witness_PrnStageComputesEveryCarriersCode :
    ∃ out, candidateRom.admitted = true ∧ prnStage candidateRom .III = .ok out ∧
      (carrierOrder (candidateRom.mode .III).consts.numCarriers.toNat)[191]? = some 96 := by
  obtain ⟨p, hp⟩ := derivation_modeIII
  exact ⟨p.prn, test_admitted_candidate.1, (derivation_ok hp).1, by decide +kernel⟩

theorem witness_PrnStageStopsAtTheFirstFailingCarrier :
    (rangeRom.admitted = true ∧ (carrierOrder (rangeRom.mode .III).consts.numCarriers.toNat)[0]? = some (-96) ∧
      ∃ row, (rangeRom.mode .III).prnRows[(rowIndex (rangeRom.mode .III).consts.numCarriers.toNat (-96)).toNat]? =
          some row ∧ ¬(row.kMin.toInt ≤ -96 ∧ -96 ≤ row.kMax.toInt)) ∧
    (anchorRom.admitted = true ∧ (carrierOrder (anchorRom.mode .III).consts.numCarriers.toNat)[0]? = some (-96) ∧
      ∃ row, (anchorRom.mode .III).prnRows[(rowIndex (anchorRom.mode .III).consts.numCarriers.toNat (-96)).toNat]? =
          some row ∧ (row.kMin.toInt ≤ -96 ∧ -96 ≤ row.kMax.toInt) ∧ anchor (-96) ≠ row.kAnchor.toInt) :=
  ⟨⟨by decide +kernel, by decide +kernel, ⟨BitVec.ofInt 12 (-95), BitVec.ofInt 12 (-65), BitVec.ofInt 12 (-96), 0#2, 2#2⟩,
      by decide +kernel, by decide +kernel⟩,
    ⟨by decide +kernel, by decide +kernel, ⟨BitVec.ofInt 12 (-96), BitVec.ofInt 12 (-65), BitVec.ofInt 12 (-95), 0#2, 2#2⟩,
      by decide +kernel, by decide +kernel, by decide +kernel⟩⟩

theorem witness_PrnStagePassesExactlyTheStructuredRoms :
    candidateRom.admitted = true ∧ (candidateRom.mode .III).consts.numCarriers.toNat = 192 ∧ 5 < 192 / 32 ∧
    (∃ out, prnStage candidateRom .III = .ok out) ∧
    (∃ row, (candidateRom.mode .III).prnRows[5]? = some row ∧ row.kAnchor.toInt = 65) := by
  obtain ⟨p, hp⟩ := derivation_modeIII
  exact ⟨test_admitted_candidate.1, by decide +kernel, by decide, ⟨p.prn, (derivation_ok hp).1⟩,
    ⟨BitVec.ofInt 12 65, BitVec.ofInt 12 96, BitVec.ofInt 12 65, 1#2, 2#2⟩, by decide +kernel, by decide +kernel⟩

theorem witness_recurrence :
    8 ≤ (8 : Nat) ∧ 8 % 8 = 0 ∧ (lcrValues 8)[6]? = some 2 ∧ (-3 : Int) ∈ survivors 8 ∧ (3 : Int) ∈ survivors 8 := by
  decide

theorem witness_RecurrenceHasFullPeriod : ∃ N : Nat, (N = 256 ∨ N = 512 ∨ N = 1024 ∨ N = 2048) ∧ N = 2048 :=
  ⟨2048, by decide, rfl⟩

theorem witness_FiStageReportsTheFirstFailingCheck :
    ((withNK 88#20 128#20).admitted = true ∧ (survivors 88).length ≠ 128) ∧
    ((withNK 88#20 64#20).admitted = true ∧ (survivors 88).length = 64 ∧ (survivors 88)[29]? = some (-23) ∧
      (-23 : Int) ∈ (survivors 88).take 29 ∧ ((survivors 88).take 29).Nodup) ∧
    ((withModeIII fun r => { r with golden := [-65, -13] }).admitted = true ∧ (survivors 256).length = 192 ∧
      (survivors 256).Nodup ∧ (survivors 256)[1]? ≠ ([-65, -13] : List Int)[1]? ∧
      (survivors 256)[0]? = ([-65, -13] : List Int)[0]?) := by
  refine ⟨⟨by decide +kernel, by decide +kernel⟩,
    ⟨by decide +kernel, by decide +kernel, by decide +kernel, by decide +kernel, by decide +kernel⟩,
    by decide +kernel, by decide +kernel, by decide +kernel, by decide +kernel, by decide +kernel⟩

theorem witness_ArrayCheckPassesAtThreeQuarters :
    8 % 8 = 0 ∧ 4 * 6 = 3 * 8 ∧ countCheck 6 (survivors 8) = none ∧ duplicateCheck 6 (survivors 8) = none := by decide

theorem witness_RoundTripCheckCannotFail :
    (survivors 8).length = 6 ∧ arrayCheck 6 (arrayForm 6 (survivors 8)) = none ∧
    ((arrayForm 6 (survivors 8)).map Int.toNat)[0]? = some 0 := by decide

theorem witness_ArrayFormIsTheCarrierPosition :
    64 % 64 = 0 ∧ (-32 : Int) ≠ 0 ∧ -((64 : Int) / 2) ≤ -32 ∧ (32 : Int) ≤ 64 / 2 := by decide

theorem witness_EveryStepKeepsTheInvariant :
    ∃ s t : State, s.Inv ∧ step s = .next t ∧ t.status.fault = true := by
  exact ⟨idleBlock candidateRom [cmdTo 0x04000000#32], _, idleBlock_inv _, rfl, rfl⟩

theorem witness_InvariantStatesNeverFault :
    ∃ s : State, s.Inv ∧ step s = .refused .romNotAdmitted :=
  ⟨{ runningBlock (withNK 256#20 96#20) .selftest 0#3 0 [] with
      status := (State.afterReset candidateRom 0 []).status },
    ⟨by simp [runningBlock], by simp, by simp [runningBlock, idleBlock], by simp, by simp [runningBlock], by simp, by simp,
      Memory.wf_absent⟩, by
      rw [step_of_nil rfl]
      have h : (withNK 256#20 96#20).admitted = false := by decide +kernel
      simp [engineStep, runningBlock, idleBlock, onAdmittedRom, h]⟩

theorem witness_ResetGivesTheSpecifiedValues :
    (faultedBlock [.reset]).agenda = .reset :: [] ∧ (0x0010#16).toNat % 4 = 0 ∧ 0x0010 ≤ (0x0010#16).toNat :=
  ⟨rfl, by decide, by decide⟩

theorem witness_RomsNeverChange :
    ∃ s t : State, runMoves 2 s = .next t ∧ t.status.romOk = false :=
  ⟨faultedBlock [cmdTo 0x03000000#32, .reset], _, rfl, rfl⟩

/-! The ten flag changes of FlagsAreWrittenOnlyAsListed, each reached by the writer the table names. -/

theorem witness_flags_busy :
    (idleBlock candidateRom [cmdTo 0x02000000#32]).status.busy = false ∧
    (nextOf (step (idleBlock candidateRom [cmdTo 0x02000000#32]))).map (·.status.busy) = some true ∧
    (runningBlock candidateRom .selftest 0#3 0 []).status.busy = true ∧
    (nextOf (step (runningBlock candidateRom .selftest 0#3 0 []))).map (·.status.busy) = some false := by
  decide +kernel

theorem witness_flags_valid :
    (runningBlock candidateRom .derive 3#3 0 []).status.valid = false ∧
    (∃ t, step (runningBlock candidateRom .derive 3#3 0 []) = .next t ∧ t.status.valid = true) ∧
    (doneBlock ⟨[], [], [], []⟩ [cmdTo 0x01000001#32]).status.valid = true ∧
    (nextOf (step (doneBlock ⟨[], [], [], []⟩ [cmdTo 0x01000001#32]))).map (·.status.valid) = some false := by
  obtain ⟨p, -, h⟩ := completion_modeIII (runningBlock candidateRom .derive 3#3 0 []) rfl rfl
  exact ⟨rfl, ⟨_, (step_of_nil rfl).trans h, rfl⟩, rfl, by decide +kernel⟩

theorem witness_flags_fault :
    (idleBlock candidateRom [cmdTo 0x04000000#32]).status.fault = false ∧
    (nextOf (step (idleBlock candidateRom [cmdTo 0x04000000#32]))).map (·.status.fault) = some true ∧
    (faultedBlock [cmdTo 0x03000000#32]).status.fault = true ∧
    (nextOf (step (faultedBlock [cmdTo 0x03000000#32]))).map (·.status.fault) = some false := by decide +kernel

theorem witness_flags_overrun :
    (runningBlock candidateRom .derive 3#3 1 [cmdTo 0x03000000#32]).status.overrun = false ∧
    (nextOf (step (runningBlock candidateRom .derive 3#3 1 [cmdTo 0x03000000#32]))).map (·.status.overrun) = some true ∧
    (faultedBlock [cmdTo 0x03000000#32]).status.overrun = true ∧
    (nextOf (step (faultedBlock [cmdTo 0x03000000#32]))).map (·.status.overrun) = some false := by decide +kernel

/-- The block while its reset self-test is about to complete, ROM_OK = 0. -/
def bootingBlock : State :=
  { runningBlock candidateRom .selftest 0#3 0 [] with
    status := { (runningBlock candidateRom .selftest 0#3 0 []).status with romOk := false } }

theorem witness_flags_romOk :
    bootingBlock.status.romOk = false ∧ (nextOf (step bootingBlock)).map (·.status.romOk) = some true ∧
    (runningBlock brokenRom .selftest 0#3 0 []).status.romOk = true ∧
    (nextOf (step (runningBlock brokenRom .selftest 0#3 0 []))).map (·.status.romOk) = some false := by decide +kernel

theorem witness_OverrunNeverAffectsOtherState :
    ∃ s t : State, step s = .next t ∧ s.status.overrun = true ∧ t.status.overrun = true :=
  ⟨faultedBlock [cmdTo 0x02000000#32], _, rfl, rfl, rfl⟩

theorem witness_EngineCompletesAfterItsLatency :
    (runningBlock candidateRom .derive 3#3 5 []).agenda = [] ∧ (runningBlock candidateRom .derive 3#3 5 []).eng.op ≠ .idle ∧
    (5 : Nat) ≤ (runningBlock candidateRom .derive 3#3 5 []).eng.left := ⟨rfl, by decide, by decide⟩

theorem witness_PollingTerminates :
    ∃ s : State, s.Inv ∧ s.rom.admitted = true ∧
      (∀ e ∈ s.agenda, e = .engine ∨ e = .host (.read 0x0004#16)) ∧
      s.eng.left < engineTurns s.agenda ∧ s.status.busy = true :=
  ⟨runningBlock candidateRom .derive 3#3 1 [.host (.read 0x0004#16), .engine, .engine], runningBlock_inv _ _,
    test_admitted_candidate.1, by simp [runningBlock, idleBlock], by decide, rfl⟩

theorem witness_DeriveRunsToItsSnapshot :
    ∃ (s : State) (p : Snapshot), decode 0x01000003#32 = .command (.derive 3#3) ∧
      s.agenda = [.host (.write 0x0000#16 0x01000003#32)] ∧ s.status.busy = false ∧ s.status.romOk = true ∧
      s.rom.admitted = true ∧ (3#3).toNat = Mode.number .III ∧ derivation s.rom .III = .ok p := by
  obtain ⟨p, hp⟩ := derivation_modeIII
  exact ⟨idleBlock candidateRom [cmdTo 0x01000003#32], p, by decide, rfl, rfl, rfl, test_admitted_candidate.1, rfl, hp⟩

theorem witness_BrokenConstantsNeverGiveASnapshot :
    ∃ s t : State, s.Inv ∧ constCheck s.rom ≠ none ∧ runMoves 1 s = .next t :=
  ⟨{ idleBlock brokenRom [cmdTo 0x01000003#32] with
      status := { (idleBlock brokenRom []).status with romOk := false } }, _,
    ⟨by simp [idleBlock], by simp [idleBlock], by simp [idleBlock], by simp [idleBlock], by simp [idleBlock], by simp,
      by simp [idleBlock], Memory.wf_absent⟩, by
      have h : constCheck brokenRom = some ⟨.constTable, 0x00000103#32⟩ := by decide +kernel
      simp [idleBlock, h], rfl⟩

theorem witness_DeriveIsDeterministic :
    ∃ s s' t t' : State, completes .derive s ∧ completes .derive s' ∧ s.agenda ≠ s'.agenda ∧ s.eng.mode = s'.eng.mode ∧
      s.rom = s'.rom ∧ s.status.fault = false ∧ s'.status.fault = false ∧ step s = .next t ∧ step s' = .next t' := by
  let a : State := runningBlock candidateRom .derive 3#3 0 []
  let b : State := runningBlock candidateRom .derive 3#3 0 [.engine, .host (.read 0x2000#16)]
  obtain ⟨p, -, ht⟩ := completion_modeIII a rfl rfl
  obtain ⟨p', -, ht'⟩ := completion_modeIII (setAgenda [.host (.read 0x2000#16)] b) rfl rfl
  exact ⟨a, b, _, _, ⟨rfl, rfl, .inl rfl⟩, ⟨rfl, rfl, .inr ⟨_, rfl⟩⟩, by simp [a, b, runningBlock, idleBlock], rfl, rfl, rfl,
    rfl, (step_of_nil rfl).trans ht, (step_of_cons (e := .engine) rfl).trans ht'⟩

end Sys2Proof.Tests
end

/-! Every operation of the block keeps the invariant, one lemma per operation (O49, O50). -/

namespace Sys2Proof.Machine

/-! Updates the invariant does not speak of. -/

theorem State.Inv.setAgenda {s : State} (h : s.Inv) (rest : List Event) : (setAgenda rest s).Inv := { h with }

theorem State.Inv.respond {s : State} (h : s.Inv) (r : Response) : (respond r s).Inv := { h with }

theorem State.Inv.setEngLeft {s : State} (h : s.Inv) (n : Nat) : (setEngLeft n s).Inv := { h with }

theorem State.Inv.setOverrun {s : State} (h : s.Inv) (b : Bool) : (setOverrun b s).Inv := { h with }

/-! The fault record and the snapshot (60_exceptions.md R215, R220). -/

theorem State.Inv.raiseFault {s : State} (h : s.Inv) {r : Raise} (hr : r.cause ≠ .noFault) :
    (raiseFault r s).Inv where
  busyIffRunning := by simp
  noModeWhileInvalid := by simp
  noCauseWithoutFault := by simp
  faultIsFinal := by simpa using hr
  runningDerive := by simp
  romOkIsTrue := h.romOkIsTrue
  validIsComplete := by simp
  memoryCanonical := h.memoryCanonical

theorem State.Inv.clearFaultRecord {s : State} (h : s.Inv) : (clearFaultRecord s).Inv :=
  { h with
    noCauseWithoutFault := by simp
    faultIsFinal := by simp }

theorem State.Inv.dropSnapshot {s : State} (h : s.Inv) : (dropSnapshot s).Inv where
  busyIffRunning := h.busyIffRunning
  noModeWhileInvalid := by simp
  noCauseWithoutFault := h.noCauseWithoutFault
  faultIsFinal hf := by obtain ⟨hc, -, hb⟩ := h.faultIsFinal hf; exact ⟨hc, rfl, hb⟩
  runningDerive hd := by obtain ⟨hm, hr, -⟩ := h.runningDerive hd; exact ⟨hm, hr, rfl⟩
  romOkIsTrue := h.romOkIsTrue
  validIsComplete := by simp
  memoryCanonical := h.memoryCanonical

/-- RAM contents may be replaced by canonical ones while no snapshot stands over them. -/
theorem State.Inv.withMem {s : State} (h : s.Inv) (hv : s.status.valid = false) {mem : Memory} (hm : mem.wf = true) :
    State.Inv { s with mem := mem } :=
  { h with
    validIsComplete := by simp [hv]
    memoryCanonical := hm }

/-! The engine's start and end (40_commands.md R114, R116, R118, R120). -/

theorem State.Inv.startSelftest {s : State} (h : s.Inv) (hf : s.status.fault = false) (left : Nat) :
    (startEngine .selftest left s).Inv :=
  { h with
    busyIffRunning := by simp
    faultIsFinal := by simp [hf]
    runningDerive := by simp }

theorem State.Inv.startDerive {s : State} (h : s.Inv) (hf : s.status.fault = false) (hv : s.status.valid = false)
    (hr : s.status.romOk = true) {f : BitVec 3} (hm : (modeOfField f).isSome = true) (left : Nat) :
    (setEngMode f (startEngine .derive left s)).Inv :=
  { h with
    busyIffRunning := by simp
    faultIsFinal := by simp [hf]
    runningDerive := fun _ => ⟨hm, hr, hv⟩ }

theorem State.Inv.finishEngine {s : State} (h : s.Inv) : (finishEngine s).Inv :=
  { h with
    busyIffRunning := by simp
    faultIsFinal := fun hf => by obtain ⟨hc, hv, -⟩ := h.faultIsFinal hf; exact ⟨hc, hv, rfl⟩
    runningDerive := by simp }

theorem State.Inv.setRomOk_true {s : State} (h : s.Inv) (ha : s.rom.admitted = true) (hc : constCheck s.rom = none) :
    (setRomOk true s).Inv :=
  { h with
    runningDerive := fun hd => by obtain ⟨hm, -, hv⟩ := h.runningDerive hd; exact ⟨hm, rfl, hv⟩
    romOkIsTrue := fun _ => ⟨ha, hc⟩
    validIsComplete := fun hv => ⟨rfl, (h.validIsComplete hv).2⟩ }

theorem State.Inv.setRomOk_false {s : State} (h : s.Inv) (hv : s.status.valid = false) (ho : s.eng.op ≠ .derive) :
    (setRomOk false s).Inv :=
  { h with
    runningDerive := fun hd => absurd hd ho
    romOkIsTrue := by simp
    validIsComplete := by simp [hv] }

/-! Completions. -/

theorem State.Inv.completeSelftest {s : State} (h : s.Inv) (ha : s.rom.admitted = true) :
    (completeSelftest s).Inv := by
  rcases completeSelftest_cases s with ⟨r, hr, e⟩ | ⟨hc, e⟩ <;> rw [e]
  · exact (h.raiseFault (by simp [constCheck_cause hr])).setRomOk_false rfl (by simp)
  · exact (h.setRomOk_true ha hc).finishEngine

/-- Under the premises of 10_state.md R48 the RAMs hold the snapshot that a commit has written. -/
theorem holdsSnapshot_commitMemory {rom : Rom} {m : Mode} {p : Snapshot} (ha : rom.admitted = true)
    (hp : derivation rom m = .ok p) (mem : Memory) : holdsSnapshot (commitMemory p mem) p := by
  obtain ⟨hprn, hfis, hilv, hdil⟩ := derivation_lengths ha hp
  intro j hj
  simp only [commitMemory, ramRead_ramCommit, List.length_map, hfis, hilv, hdil, ← hprn, hj, if_true, and_self]

/-- Under the premises of 10_state.md R48 a commit keeps the RAMs' canonical form. -/
theorem wf_commitMemory_of_derivation {rom : Rom} {m : Mode} {p : Snapshot} (ha : rom.admitted = true)
    (hp : derivation rom m = .ok p) {mem : Memory} (hm : mem.wf = true) : (commitMemory p mem).wf = true := by
  obtain ⟨-, -, hK, -⟩ := Rom.admitted_bounds ha m
  obtain ⟨hprn, hfis, hilv, hdil⟩ := derivation_lengths ha hp
  exact wf_commitMemory p mem hm (hprn ▸ hK) (hfis ▸ hK) (hilv ▸ hK) (hdil ▸ hK)

/-- A fault is recorded only over an idle engine (60_exceptions.md R215). -/
theorem State.Inv.no_fault_while_running {s : State} (h : s.Inv) (ho : s.eng.op ≠ .idle) : s.status.fault = false := by
  by_contra hf
  obtain ⟨-, -, hb⟩ := h.faultIsFinal (by simpa using hf)
  simp [h.busyIffRunning.2 ho] at hb

/-- The commit of a successful DERIVE gives a complete snapshot. -/
theorem State.Inv.commit {s : State} (h : s.Inv) (ho : s.eng.op = .derive) {m : Mode} {p : Snapshot}
    (hm : modeOfField s.eng.mode = some m) (hp : derivation s.rom m = .ok p) :
    (Machine.finishEngine (setSnapshot s.eng.mode (commitRams p s))).Inv := by
  obtain ⟨-, hok, hv⟩ := h.runningDerive ho
  obtain ⟨ha, -⟩ := h.romOkIsTrue hok
  have hf := h.no_fault_while_running (by simp [ho])
  exact
    { busyIffRunning := by simp
      noModeWhileInvalid := by simp
      noCauseWithoutFault := h.noCauseWithoutFault
      faultIsFinal := by simp [hf]
      runningDerive := by simp
      romOkIsTrue := h.romOkIsTrue
      validIsComplete := fun _ => ⟨hok, m, p, hm, hp, holdsSnapshot_commitMemory ha hp s.mem⟩
      memoryCanonical := wf_commitMemory_of_derivation ha hp h.memoryCanonical }

theorem State.Inv.completeDerive {s t : State} (h : s.Inv) (ho : s.eng.op = .derive)
    (ht : completeDerive s = .next t) : t.Inv := by
  obtain ⟨m, hm, ⟨r, hr, rfl⟩ | ⟨p, hp, rfl⟩⟩ := completeDerive_cases ht
  · exact (h.raiseFault (derivation_cause hr)).withMem rfl Memory.wf_absent
  · exact h.commit ho hm hp

/-! The moves. -/

theorem State.Inv.engineStep {s t : State} (h : s.Inv) (ht : engineStep s = .next t) : t.Inv := by
  rcases engineStep_cases ht with ⟨-, rfl⟩ | ⟨-, n, -, rfl⟩ | ⟨-, -, ha, rfl⟩ | ⟨ho, -, -, hc⟩
  · exact h
  · exact h.setEngLeft n
  · exact h.completeSelftest ha
  · exact h.completeDerive ho hc

theorem State.Inv.exec {i : Instr} {s t : State} (h : s.Inv) (ht : exec i s = .next t) : t.Inv := by
  have hd := h.clearFaultRecord.dropSnapshot
  rcases exec_cases ht with ⟨-, rfl⟩ | ⟨-, rfl⟩ | ⟨-, rfl⟩ |
    ⟨f, -, ⟨-, rfl⟩ | ⟨-, -, rfl⟩ | ⟨hm, hr, rfl⟩⟩
  · exact h
  · exact h.clearFaultRecord.setOverrun false
  · exact h.clearFaultRecord.startSelftest rfl _
  · exact hd.raiseFault (by simp)
  · exact hd.raiseFault (by simp)
  · exact hd.startDerive rfl rfl hr hm _

theorem State.Inv.cmdWrite {w : Word} {s t : State} (h : s.Inv) (ht : cmdWrite w s = .next t) : t.Inv := by
  rcases cmdWrite_cases ht with ⟨-, rfl⟩ | ⟨-, i, -, he⟩ | ⟨-, why, -, rfl⟩
  · exact h.setOverrun true
  · exact h.exec he
  · exact h.raiseFault (by simp)

theorem afterReset_inv (rom : Rom) (d : Nat) (ag : List Event) : (State.afterReset rom d ag).Inv where
  busyIffRunning := by simp
  noModeWhileInvalid := by simp
  noCauseWithoutFault := by simp
  faultIsFinal := by simp
  runningDerive := by simp
  romOkIsTrue := by simp
  validIsComplete := by simp
  memoryCanonical := Memory.wf_absent

theorem State.Inv.step {s t : State} (h : s.Inv) (ht : step s = .next t) : t.Inv := by
  rcases step_moves ht with ⟨-, rest, he⟩ | ⟨rest, -, rfl⟩ | ⟨r, rest, rfl⟩ | ⟨w, rest, -, hw⟩
  · exact (h.setAgenda rest).engineStep he
  · exact afterReset_inv _ _ _
  · exact (h.setAgenda rest).respond r
  · exact ((h.setAgenda rest).respond _).cmdWrite hw

/-- Settles O49: every move is one of a few operations, each of which keeps the invariant. -/
theorem everyStepKeepsTheInvariant : Obligations.EveryStepKeepsTheInvariant := fun _ _ h ht => h.step ht

/-- Settles O50: after reset the self-test runs, nothing is recorded and no RAM entry is listed. -/
theorem resetMeetsTheInvariant : Obligations.ResetMeetsTheInvariant :=
  ⟨afterReset_inv, afterReset_inv _ _ _⟩

end Sys2Proof.Machine

/-! What the register block and the windows read: the STATUS word's fields, the regions of the address map, the views of the
ROM, and what hides the RAMs (O15, O16, O17, O22, O52). -/

namespace Sys2Proof.Machine

/-! The STATUS word (10_state.md R24). -/

theorem toNat_append_eq_mul_add (w : Nat) {v : Nat} (x : BitVec v) (y : BitVec w) :
    (x ++ y).toNat = 2 ^ w * x.toNat + y.toNat := by
  rw [BitVec.toNat_append, ← Nat.shiftLeft_add_eq_or_of_lt y.isLt, Nat.shiftLeft_eq, Nat.mul_comm]

/-- The STATUS word as a sum of its fields, each at its place. -/
theorem statusWord_toNat (t : Status) :
    (statusWord t).toNat = t.busy.toNat + 2 * t.valid.toNat + 4 * t.fault.toNat + 8 * t.overrun.toNat +
      16 * t.romOk.toNat + 256 * t.activeMode.toNat + 65536 * (causeCode t.cause).toNat := by
  simp only [statusWord, toNat_append_eq_mul_add 1, toNat_append_eq_mul_add 3, toNat_append_eq_mul_add 4,
    toNat_append_eq_mul_add 5, BitVec.toNat_ofBool, BitVec.toNat_ofNat]
  omega

/-- Every field read out of the word's sum: each is below its width, so no field reaches into the next. -/
theorem statusWord_fields (t : Status) :
    (statusWord t).extractLsb' 0 1 = BitVec.ofBool t.busy ∧
    (statusWord t).extractLsb' 1 1 = BitVec.ofBool t.valid ∧
    (statusWord t).extractLsb' 2 1 = BitVec.ofBool t.fault ∧
    (statusWord t).extractLsb' 3 1 = BitVec.ofBool t.overrun ∧
    (statusWord t).extractLsb' 4 1 = BitVec.ofBool t.romOk ∧
    (statusWord t).extractLsb' 5 3 = 0#3 ∧
    (statusWord t).extractLsb' 8 3 = t.activeMode ∧
    (statusWord t).extractLsb' 11 5 = 0#5 ∧
    (statusWord t).extractLsb' 20 12 = 0#12 ∧
    (statusWord t).extractLsb' 16 4 = causeCode t.cause := by
  have hbusy := t.busy.toNat_lt
  have hvalid := t.valid.toNat_lt
  have hfault := t.fault.toNat_lt
  have hoverrun := t.overrun.toNat_lt
  have hromOk := t.romOk.toNat_lt
  have hmode := t.activeMode.isLt
  have hcause := (causeCode t.cause).isLt
  refine ⟨?_, ?_, ?_, ?_, ?_, ?_, ?_, ?_, ?_, ?_⟩
  all_goals
    apply BitVec.eq_of_toNat_eq
    simp only [BitVec.extractLsb'_toNat, statusWord_toNat, Nat.shiftRight_eq_div_pow, BitVec.toNat_ofBool,
      BitVec.toNat_ofNat]
    omega

theorem causeCode_le_ten (c : Cause) : (causeCode c).toNat ≤ 10 := by cases c <;> decide

/-- Settles O15: the word is the sum of its fields, and a cause's code is the table's. -/
theorem statusWordHasTheSpecifiedFields : Obligations.StatusWordHasTheSpecifiedFields := by
  intro s
  obtain ⟨hbusy, hvalid, hfault, hoverrun, hromOk, hlow, hmode, hmid, hhigh, hcause⟩ := statusWord_fields s.status
  refine ⟨statusWord s.status, rfl, hbusy, hvalid, hfault, hoverrun, hromOk, hlow, hmode, hmid, hhigh, ?_⟩
  rw [hcause]
  exact ⟨congrArg causeCode, congrArg causeCode, congrArg causeCode, congrArg causeCode, congrArg causeCode,
    congrArg causeCode, congrArg causeCode, congrArg causeCode, congrArg causeCode, congrArg causeCode,
    congrArg causeCode, causeCode_le_ten _⟩

/-! The address map (10_state.md R22, 20_memory.md R66). -/

theorem regionOf_eq_reserved {a : Addr} (h1 : 0x002C ≤ a.toNat) (h2 : a.toNat < 0x0100) : regionOf a = .reserved := by
  rw [regionOf, if_pos h2, registerAt]
  iterate 10 rw [if_neg (by omega)]

theorem regionOf_eq_unmapped_low {a : Addr} (h1 : 0x0100 ≤ a.toNat) (h2 : a.toNat < 0x2000) :
    regionOf a = .unmapped := by
  rw [regionOf, if_neg (by omega), if_pos h2]

theorem regionOf_eq_unmapped_high {a : Addr} (h : 0xA000 ≤ a.toNat) : regionOf a = .unmapped := by
  rw [regionOf]
  iterate 6 rw [if_neg (by omega)]

/-- CMD, STATUS and FAULT_INFO stand below 0x0010. -/
theorem regionOf_of_le {a : Addr} (h : 0x0010 ≤ a.toNat) :
    regionOf a ≠ .cmd ∧ regionOf a ≠ .status ∧ regionOf a ≠ .faultInfo := by
  have h0 : a.toNat ≠ 0x0000 := by omega
  have h4 : a.toNat ≠ 0x0004 := by omega
  have h8 : a.toNat ≠ 0x0008 := by omega
  unfold regionOf registerAt
  simp only [h0, h4, h8, if_false]
  split_ifs <;> simp

theorem readWord_reserved {s : State} {a : Addr} (h : regionOf a = .reserved) : readWord s a = .ok 0x00000000#32 := by
  simp [readWord, h]

theorem readWord_unmapped {s : State} {a : Addr} (h : regionOf a = .unmapped) : readWord s a = .ok 0x00000000#32 := by
  simp [readWord, h]

/-- Settles O16: each range lies in one region of the address map. -/
theorem registerBlockReads : Obligations.RegisterBlockReads := by
  intro s a _
  refine ⟨fun h => ?_, fun h => ?_, fun h => ?_, fun ⟨h1, h2⟩ => readWord_reserved (regionOf_eq_reserved h1 h2),
    fun ⟨h1, h2⟩ => readWord_unmapped (regionOf_eq_unmapped_low h1 h2),
    fun h => readWord_unmapped (regionOf_eq_unmapped_high h)⟩
  · obtain rfl : a = 0x0000#16 := BitVec.eq_of_toNat_eq h
    rfl
  · obtain rfl : a = 0x0008#16 := BitVec.eq_of_toNat_eq h
    rfl
  · obtain rfl : a = 0x000C#16 := BitVec.eq_of_toNat_eq h
    rfl

/-! Constant registers and windows (10_state.md R34, 20_memory.md R67). -/

theorem readConst_of_invalid {s : State} (hv : s.status.valid = false) (c : ConstReg) :
    readConst s c = .ok 0x00000000#32 := by
  simp [readConst, hv]

theorem readConst_of_valid {s : State} {m : Mode} (hv : s.status.valid = true)
    (hm : modeOfField s.status.activeMode = some m) (c : ConstReg) :
    readConst s c = .ok (zext32 (constField (s.rom.mode m).consts c)) := by
  simp [readConst, hv, hm]

theorem readWindow_of_invalid {s : State} (hv : s.status.valid = false) (x : Window) (j : Nat) :
    readWindow s x j = .ok 0x00000000#32 := by
  simp [readWindow, hv]

theorem readWindow_of_valid {s : State} {m : Mode} (hv : s.status.valid = true)
    (hm : modeOfField s.status.activeMode = some m) (x : Window) (j : Nat) :
    readWindow s x j = .ok (if j < carriersOf s.rom m then ramWord s.mem x j else 0x00000000#32) := by
  simp only [readWindow, hv, hm]
  split <;> rfl

/-- While VALID = 0 every offset from 0x0010 on reads 0. -/
theorem readWord_of_invalid {s : State} (hv : s.status.valid = false) {a : Addr} (ha : 0x0010 ≤ a.toNat) :
    readWord s a = .ok 0x00000000#32 := by
  obtain ⟨hcmd, hstatus, hinfo⟩ := regionOf_of_le ha
  cases hr : regionOf a with
  | cmd => exact absurd hr hcmd
  | status => exact absurd hr hstatus
  | faultInfo => exact absurd hr hinfo
  | const c => simp [readWord, hr, readConst_of_invalid hv]
  | reserved => exact readWord_reserved hr
  | unmapped => exact readWord_unmapped hr
  | window x j => simp [readWord, hr, readWindow_of_invalid hv]

/-- Settles O17: the offsets' registers are the record's fields in order. -/
theorem constantRegistersViewTheRom : Obligations.ConstantRegistersViewTheRom := by
  refine ⟨fun s m hv hm => ?_, fun s a hv _ ha _ => readWord_of_invalid hv ha⟩
  have view := readConst_of_valid hv ((modeOfField_eq_some_iff _ _).2 hm)
  exact ⟨view .symbolsPerFrame, view .numCarriers, view .frameLength, view .nsLength, view .symbolLength,
    view .fftLength, view .cpLength⟩

/-! What hides the RAMs (10_state.md R35, R47). -/

/-- Only a window read can see the RAMs. -/
theorem readWord_mem_congr {s : State} {mem : Memory}
    (h : ∀ x j, readWindow { s with mem := mem } x j = readWindow s x j) (a : Addr) :
    readWord { s with mem := mem } a = readWord s a := by
  cases hr : regionOf a <;> simp only [readWord, hr]
  case const => rfl
  case window x j => exact h x j

/-- A window word depends on its own RAM's entry alone. -/
theorem ramWord_congr {m m' : Memory} {j : Nat} (hprn : ramRead m.prn j = ramRead m'.prn j)
    (hfis : ramRead m.fis j = ramRead m'.fis j) (hilv : ramRead m.ilv j = ramRead m'.ilv j)
    (hdil : ramRead m.dil j = ramRead m'.dil j) (x : Window) : ramWord m x j = ramWord m' x j := by
  cases x <;> simp only [ramWord, hprn, hfis, hilv, hdil]

/-- Settles O22: a window shows nothing while VALID = 0, and only entries below K otherwise. -/
theorem hiddenRamContentsAreUnobservable : Obligations.HiddenRamContentsAreUnobservable := by
  refine ⟨fun s mem a hv => readWord_mem_congr (fun x j => ?_) a,
    fun s mem m a hm hagree => readWord_mem_congr (fun x j => ?_) a⟩
  · rw [readWindow_of_invalid hv, readWindow_of_invalid (s := { s with mem := mem }) hv]
  · cases hv : s.status.valid with
    | false => rw [readWindow_of_invalid hv, readWindow_of_invalid (s := { s with mem := mem }) hv]
    | true =>
      rw [readWindow_of_valid hv hm, readWindow_of_valid (s := { s with mem := mem }) hv hm]
      by_cases hj : j < carriersOf s.rom m
      · obtain ⟨hprn, hfis, hilv, hdil⟩ := hagree j hj
        rw [if_pos hj, if_pos hj, ramWord_congr hprn hfis hilv hdil]
      · rw [if_neg hj, if_neg hj]

theorem statusWord_afterReset (rom : Rom) (d : Nat) (ag : List Event) :
    statusWord (State.afterReset rom d ag).status = 0x00000001#32 := by
  change statusWord ⟨true, false, false, false, false, 0#3, .noFault⟩ = 0x00000001#32
  decide

/-- Settles O52: the release of reset gives State.afterReset, where VALID = 0 hides every register view and window. -/
theorem resetGivesTheSpecifiedValues : Obligations.ResetGivesTheSpecifiedValues := by
  intro s rest h
  exact ⟨resetBlock (setAgenda rest s), step_of_cons h, statusWord_afterReset _ _ _, rfl, rfl,
    ⟨Config.latSelftest s.draws + 1, Nat.succ_pos _, rfl⟩, rfl, rfl, fun a _ ha => readWord_of_invalid rfl ha⟩

end Sys2Proof.Machine

/-! What can stop a step: nothing but the engine's refusal of a ROM set outside 10_state.md R48 (O51). -/

namespace Sys2Proof.Machine

theorem exec_next (i : Instr) (s : State) : ∃ t, exec i s = .next t := by
  cases i with
  | nop => exact ⟨_, rfl⟩
  | selftest => exact ⟨_, rfl⟩
  | clearFault => exact ⟨_, rfl⟩
  | derive f =>
    simp only [exec, execDerive]
    split
    · exact ⟨_, rfl⟩
    · split <;> exact ⟨_, rfl⟩

theorem cmdWrite_next (w : Word) (s : State) : ∃ t, cmdWrite w s = .next t := by
  unfold cmdWrite
  split
  · exact ⟨_, rfl⟩
  · split
    · exact exec_next _ s
    · exact ⟨_, rfl⟩

/-! The port's answers, case by case (20_memory.md R64, R67, R68, R71). -/

theorem busRead_of_ok {s : State} {a : Addr} {w : Word} (ha : aligned a = true) (hw : readWord s a = .ok w) :
    busRead a s = .next (respond (.read .okay w) s) := by
  simp only [busRead, ha, hw]

theorem busRead_of_misaligned {s : State} {a : Addr} (ha : aligned a = false) :
    busRead a s = .next (respond (.read .busError 0x00000000#32) s) := by
  simp only [busRead, ha]

theorem busWrite_of_cmd {s : State} {a : Addr} {v : Word} (ha : aligned a = true) (hr : regionOf a = .cmd) :
    busWrite a v s = cmdWrite v (respond (.write .okay) s) := by
  simp only [busWrite, ha, hr]

theorem busWrite_of_ignored {s : State} {a : Addr} {v : Word} (ha : aligned a = true) (hr : regionOf a ≠ .cmd) :
    busWrite a v s = .next (respond (.write .okay) s) := by
  cases h : regionOf a with
  | cmd => exact absurd h hr
  | _ => simp only [busWrite, ha, h]

theorem busWrite_of_misaligned {s : State} {a : Addr} {v : Word} (ha : aligned a = false) :
    busWrite a v s = .next (respond (.write .busError) s) := by
  simp only [busWrite, ha]

theorem busWrite_next (a : Addr) (v : Word) (s : State) : ∃ t, busWrite a v s = .next t := by
  cases ha : aligned a with
  | false => exact ⟨_, busWrite_of_misaligned ha⟩
  | true =>
    by_cases hr : regionOf a = .cmd
    · rw [busWrite_of_cmd ha hr]; exact cmdWrite_next v _
    · exact ⟨_, busWrite_of_ignored ha hr⟩

/-- VALID = 1 names a mode, so every read has its word. -/
theorem State.Inv.readWord_ok {s : State} (h : s.Inv) (a : Addr) : ∃ w, readWord s a = .ok w := by
  cases hv : s.status.valid with
  | true =>
    obtain ⟨-, m, -, hm, -⟩ := h.validIsComplete hv
    cases hr : regionOf a <;> simp only [readWord, hr]
    case const c => exact ⟨_, readConst_of_valid hv hm c⟩
    case window x j => exact ⟨_, readWindow_of_valid hv hm x j⟩
    all_goals exact ⟨_, rfl⟩
  | false =>
    cases hr : regionOf a <;> simp only [readWord, hr]
    case const c => exact ⟨_, readConst_of_invalid hv c⟩
    case window x j => exact ⟨_, readWindow_of_invalid hv x j⟩
    all_goals exact ⟨_, rfl⟩

theorem State.Inv.transact_next {s : State} (h : s.Inv) (x : Txn) : ∃ t, transact x s = .next t := by
  cases x with
  | read a =>
    cases ha : aligned a with
    | true =>
      obtain ⟨w, hw⟩ := h.readWord_ok a
      exact ⟨_, busRead_of_ok ha hw⟩
    | false => exact ⟨_, busRead_of_misaligned ha⟩
  | write a v => exact busWrite_next a v s

theorem onAdmittedRom_of_admitted {s : State} (ha : s.rom.admitted = true) (r : Result) : onAdmittedRom s r = r := by
  simp only [onAdmittedRom, ha]

theorem onAdmittedRom_of_not_admitted {s : State} (ha : s.rom.admitted = false) (r : Result) :
    onAdmittedRom s r = .refused .romNotAdmitted := by
  simp only [onAdmittedRom, ha]

/-- An engine completion over a ROM set outside 10_state.md R48 is refused. -/
theorem engineStep_refused {s : State} (ho : s.eng.op ≠ .idle) (hl : s.eng.left = 0) (ha : s.rom.admitted = false) :
    engineStep s = .refused .romNotAdmitted := by
  cases h : s.eng.op with
  | idle => exact absurd h ho
  | selftest => simp only [engineStep, h, hl, onAdmittedRom_of_not_admitted ha]
  | derive => simp only [engineStep, h, hl, onAdmittedRom_of_not_admitted ha]

/-- A running DERIVE has a mode, so the engine's step stops only at the ROM premises. -/
theorem State.Inv.engineStep_next_or_refused {s : State} (h : s.Inv) :
    (∃ t, Machine.engineStep s = .next t) ∨
      (Machine.engineStep s = .refused .romNotAdmitted ∧ s.rom.admitted = false ∧ s.eng.op ≠ .idle ∧
        s.eng.left = 0) := by
  by_cases ho : s.eng.op = .idle
  · exact .inl ⟨_, engineStep_idle ho⟩
  cases hl : s.eng.left with
  | succ n => exact .inl ⟨_, engineStep_running ho hl⟩
  | zero =>
    cases ha : s.rom.admitted with
    | false => exact .inr ⟨engineStep_refused ho hl ha, rfl, ho, rfl⟩
    | true =>
      refine .inl ?_
      cases hop : s.eng.op with
      | idle => exact absurd hop ho
      | selftest => exact ⟨_, engineStep_selftest hop hl ha⟩
      | derive =>
        rw [engineStep_derive hop hl ha]
        obtain ⟨hm, -, -⟩ := h.runningDerive hop
        rcases completeDerive_stops s with ht | ⟨hn, -⟩
        · exact ht
        · simp [hn] at hm

/-- Settles O51: only the engine's turn can be refused, and the invariant gives every other move its next state. -/
theorem invariantStatesNeverFault : Obligations.InvariantStatesNeverFault := by
  intro s h
  cases hag : s.agenda with
  | nil =>
    rw [step_of_nil hag]
    rcases h.engineStep_next_or_refused with ht | ⟨hs, ha, ho, hl⟩
    · exact .inl ht
    · exact .inr ⟨hs, ha, ho, hl, .inl rfl⟩
  | cons e rest =>
    rw [step_of_cons hag]
    cases e with
    | host x => exact .inl ((h.setAgenda rest).transact_next x)
    | reset => exact .inl ⟨_, rfl⟩
    | engine =>
      rcases (h.setAgenda rest).engineStep_next_or_refused with ht | ⟨hs, ha, ho, hl⟩
      · exact .inl ht
      · exact .inr ⟨hs, ha, ho, hl, .inr ⟨rest, rfl⟩⟩

end Sys2Proof.Machine

/-! What a step writes to STATUS (O54), and that OVERRUN is read by no operation but the STATUS word (O55). -/

namespace Sys2Proof.Machine

/-- The STATUS a step from s can leave, one constructor per writer of the table of 10_state.md R45. -/
inductive StatusWrite (s : State) : Status → Prop
  | unchanged : StatusWrite s s.status
  | reset : resets s → StatusWrite s (resetBlock s).status
  | dropped (w : Word) (rest : List Event) : s.status.busy = true → s.agenda = .host (.write 0x0000#16 w) :: rest →
      StatusWrite s (setOverrun true s).status
  | illegal (r : Raise) : acceptsIllegal s → StatusWrite s (raiseFault r s).status
  | clearFault : accepts .clearFault s → StatusWrite s (setOverrun false (clearFaultRecord s)).status
  | selftest (left : Nat) : accepts .selftest s →
      StatusWrite s (startEngine .selftest left (clearFaultRecord s)).status
  | deriveFault (f : BitVec 3) (r : Raise) : accepts (.derive f) s → StatusWrite s (raiseFault r s).status
  | derive (f : BitVec 3) (left : Nat) : accepts (.derive f) s →
      StatusWrite s (startEngine .derive left (dropSnapshot (clearFaultRecord s))).status
  | selftestFault (r : Raise) : completes .selftest s → constCheck s.rom = some r →
      StatusWrite s (setRomOk false (raiseFault r s)).status
  | selftestPass : completes .selftest s → constCheck s.rom = none →
      StatusWrite s (finishEngine (setRomOk true s)).status
  | completionFault (r : Raise) : completes .derive s → StatusWrite s (raiseFault r s).status
  | commit (m : Mode) (p : Snapshot) : completes .derive s → modeOfField s.eng.mode = some m →
      derivation s.rom m = .ok p → StatusWrite s (finishEngine (setSnapshot s.eng.mode s)).status

/-- The engine's turn writes STATUS at a completion only (10_state.md R45). -/
theorem statusWrite_of_engineStep {s t : State} {rest : List Event}
    (hag : s.agenda = [] ∨ ∃ rest, s.agenda = .engine :: rest)
    (h : engineStep (setAgenda rest s) = .next t) : StatusWrite s t.status := by
  rcases engineStep_cases h with ⟨-, rfl⟩ | ⟨-, n, -, rfl⟩ | ⟨ho, hl, -, rfl⟩ | ⟨ho, hl, -, hc⟩
  · exact .unchanged
  · exact .unchanged
  · rcases completeSelftest_cases (setAgenda rest s) with ⟨r, hr, e⟩ | ⟨hn, e⟩ <;> rw [e]
    · exact .selftestFault r ⟨ho, hl, hag⟩ hr
    · exact .selftestPass ⟨ho, hl, hag⟩ hn
  · obtain ⟨m, hm, ⟨r, -, rfl⟩ | ⟨p, hp, rfl⟩⟩ := completeDerive_cases hc
    · exact .completionFault r ⟨ho, hl, hag⟩
    · exact .commit m p ⟨ho, hl, hag⟩ hm hp

/-- An aligned CMD write writes STATUS as the word's command, an illegal word or a dropped write. -/
theorem statusWrite_of_cmdWrite {s t : State} {w : Word} {rest : List Event} {x : Response}
    (hag : s.agenda = .host (.write 0x0000#16 w) :: rest)
    (h : cmdWrite w (respond x (setAgenda rest s)) = .next t) : StatusWrite s t.status := by
  rcases cmdWrite_cases h with ⟨hb, rfl⟩ | ⟨hb, i, hd, he⟩ | ⟨hb, why, hd, rfl⟩
  · exact .dropped w rest hb hag
  · have ha : accepts i s := ⟨hb, w, rest, hag, hd⟩
    rcases exec_cases he with ⟨-, rfl⟩ | ⟨rfl, rfl⟩ | ⟨rfl, rfl⟩ |
      ⟨f, rfl, ⟨-, rfl⟩ | ⟨-, -, rfl⟩ | ⟨-, -, rfl⟩⟩
    · exact .unchanged
    · exact .clearFault ha
    · exact .selftest (Config.latSelftest s.draws) ha
    · exact .deriveFault f _ ha
    · exact .deriveFault f _ ha
    · exact .derive f (Config.latDerive s.draws) ha
  · exact .illegal _ ⟨hb, w, rest, why, hag, hd⟩

theorem step_statusWrite {s t : State} (h : step s = .next t) : StatusWrite s t.status := by
  rcases step_moves h with ⟨hag, rest, he⟩ | ⟨rest, hag, rfl⟩ | ⟨r, rest, rfl⟩ | ⟨w, rest, hag, hw⟩
  · exact statusWrite_of_engineStep hag he
  · exact .reset ⟨rest, hag⟩
  · exact .unchanged
  · exact statusWrite_of_cmdWrite hag hw

/-- Settles O54, writer by writer. -/
theorem flagsAreWrittenOnlyAsListed : Obligations.FlagsAreWrittenOnlyAsListed := by
  intro s t h
  have hw := step_statusWrite h
  generalize t.status = u at hw ⊢
  cases hw with
  | unchanged => simp +contextual
  | reset hr => simp [resetBlock, hr]
  | dropped w rest hb hag => simp +contextual [hb, hag]
  | illegal r ha =>
    obtain ⟨hb, -⟩ := id ha
    simp +contextual [ha, hb]
  | clearFault ha => simp +contextual [ha]
  | selftest left ha => simp +contextual [ha]
  | deriveFault f r ha =>
    have hd : ∃ f, accepts (.derive f) s := ⟨f, ha⟩
    obtain ⟨hb, -⟩ := ha
    simp +contextual [hd, hb]
  | derive f left ha =>
    have hd : ∃ f, accepts (.derive f) s := ⟨f, ha⟩
    simp +contextual [hd]
  | selftestFault r hc hr => simp +contextual [hc, hr]
  | selftestPass hc hn => simp +contextual [hc, hn]
  | completionFault r hc => simp +contextual [hc]
  | commit m p hc hm hp => simp +contextual [hc, hm, hp]

/-! OVERRUN (10_state.md R28): each operation of a state with another OVERRUN ends in the same state with another OVERRUN. -/

section Overrun

variable {s t : State} (b : Bool)

theorem completeSelftest_setOverrun : completeSelftest (setOverrun b s) = setOverrun b (completeSelftest s) := by
  simp only [completeSelftest, setOverrun_rom]
  split <;> rfl

theorem completeDerive_setOverrun (h : completeDerive s = .next t) :
    completeDerive (setOverrun b s) = .next (setOverrun b t) := by
  obtain ⟨m, hm, ⟨r, hr, rfl⟩ | ⟨p, hp, rfl⟩⟩ := completeDerive_cases h
  · exact completeDerive_error (s := setOverrun b s) hm hr
  · exact completeDerive_ok (s := setOverrun b s) hm hp

theorem engineStep_setOverrun (h : engineStep s = .next t) :
    engineStep (setOverrun b s) = .next (setOverrun b t) := by
  rcases engineStep_cases h with ⟨ho, rfl⟩ | ⟨ho, n, hl, rfl⟩ | ⟨ho, hl, ha, rfl⟩ | ⟨ho, hl, ha, hc⟩
  · exact engineStep_idle ho
  · exact engineStep_running (s := setOverrun b s) ho hl
  · rw [engineStep_selftest (s := setOverrun b s) ho hl ha, completeSelftest_setOverrun]
  · rw [engineStep_derive (s := setOverrun b s) ho hl ha, completeDerive_setOverrun b hc]

theorem execDerive_setOverrun {f : BitVec 3} (h : execDerive f s = .next t) :
    execDerive f (setOverrun b s) = .next (setOverrun b t) := by
  simp only [execDerive, dropSnapshot_status_romOk, clearFaultRecord_status_romOk, setOverrun_status_romOk] at h ⊢
  split at h
  · cases h; rfl
  · split at h <;> cases h <;> rfl

/-- CLEAR_FAULT clears OVERRUN, the other commands leave it. -/
theorem exec_setOverrun {i : Instr} (h : exec i s = .next t) :
    ∃ c, exec i (setOverrun b s) = .next (setOverrun c t) := by
  cases i with
  | nop => cases h; exact ⟨b, rfl⟩
  | derive f => exact ⟨b, execDerive_setOverrun b h⟩
  | selftest => cases h; exact ⟨b, rfl⟩
  | clearFault => cases h; exact ⟨false, rfl⟩

theorem cmdWrite_setOverrun {w : Word} (h : cmdWrite w s = .next t) :
    ∃ c, cmdWrite w (setOverrun b s) = .next (setOverrun c t) := by
  rcases cmdWrite_cases h with ⟨hb, rfl⟩ | ⟨hb, i, hd, he⟩ | ⟨hb, why, hd, rfl⟩
  · exact ⟨true, by simp only [cmdWrite, setOverrun_status_busy, hb]; rfl⟩
  · obtain ⟨c, hc⟩ := exec_setOverrun b he
    exact ⟨c, by simp only [cmdWrite, setOverrun_status_busy, hb, hd, hc]⟩
  · exact ⟨b, by simp only [cmdWrite, setOverrun_status_busy, hb, hd]; rfl⟩

/-- Only the STATUS register shows OVERRUN; every other word is the same. -/
theorem readWord_setOverrun {a : Addr} {w : Word} (h : readWord s a = .ok w) :
    ∃ w', readWord (setOverrun b s) a = .ok w' := by
  cases hr : regionOf a <;> simp only [readWord, hr] at h ⊢
  case status => exact ⟨_, rfl⟩
  all_goals exact ⟨w, h⟩

theorem busRead_setOverrun {a : Addr} (h : busRead a s = .next t) :
    ∃ r, busRead a (setOverrun b s) = .next (respond r (setOverrun b t)) := by
  rcases busRead_cases h with ⟨ha, w, hw, rfl⟩ | ⟨ha, rfl⟩
  · obtain ⟨w', hw'⟩ := readWord_setOverrun b hw
    exact ⟨_, busRead_of_ok ha hw'⟩
  · exact ⟨_, busRead_of_misaligned ha⟩

theorem busWrite_setOverrun {a : Addr} {v : Word} (h : busWrite a v s = .next t) :
    ∃ c, busWrite a v (setOverrun b s) = .next (setOverrun c t) := by
  rcases busWrite_cases h with ⟨ha, hr, hw⟩ | ⟨ha, hr, rfl⟩ | ⟨ha, rfl⟩
  · rw [busWrite_of_cmd ha hr]
    exact cmdWrite_setOverrun b hw
  · exact ⟨b, busWrite_of_ignored ha hr⟩
  · exact ⟨b, busWrite_of_misaligned ha⟩

/-- Two states that differ in OVERRUN and the port's answer alone. -/
def SameButOverrun (t t' : State) : Prop :=
  ∃ (c : Bool) (r : Option Response), t' = { t with resp := r, status := { t.status with overrun := c } }

theorem sameButOverrun_refl : SameButOverrun t t := ⟨t.status.overrun, t.resp, rfl⟩

theorem sameButOverrun_setOverrun : SameButOverrun t (setOverrun b t) := ⟨b, t.resp, rfl⟩

theorem sameButOverrun_respond (r : Response) : SameButOverrun t (respond r (setOverrun b t)) := ⟨b, some r, rfl⟩

theorem transact_setOverrun {x : Txn} (h : transact x s = .next t) :
    ∃ t', transact x (setOverrun b s) = .next t' ∧ SameButOverrun t t' := by
  cases x with
  | read a =>
    obtain ⟨r, hr⟩ := busRead_setOverrun b h
    exact ⟨_, hr, sameButOverrun_respond b r⟩
  | write a v =>
    obtain ⟨c, hc⟩ := busWrite_setOverrun b h
    exact ⟨_, hc, sameButOverrun_setOverrun c⟩

theorem step_setOverrun (h : step s = .next t) :
    ∃ t', step (setOverrun b s) = .next t' ∧ SameButOverrun t t' := by
  rcases step_cases h with ⟨hag, he⟩ | ⟨rest, hag, he⟩ | ⟨rest, hag, rfl⟩ | ⟨rest, x, hag, hx⟩
  · exact ⟨_, (step_of_nil (s := setOverrun b s) hag).trans (engineStep_setOverrun b he), sameButOverrun_setOverrun b⟩
  · exact ⟨_, (step_of_cons (s := setOverrun b s) hag).trans (engineStep_setOverrun b he), sameButOverrun_setOverrun b⟩
  · exact ⟨_, step_of_cons (s := setOverrun b s) hag, sameButOverrun_refl⟩
  · obtain ⟨t', ht', hsame⟩ := transact_setOverrun b hx
    exact ⟨t', (step_of_cons (s := setOverrun b s) hag).trans ht', hsame⟩

end Overrun

/-- Settles O55: every operation commutes with a change of OVERRUN, up to what the port answered. -/
theorem overrunNeverAffectsOtherState : Obligations.OverrunNeverAffectsOtherState := by
  intro s t b h
  obtain ⟨t', ht', c, r, he⟩ := step_setOverrun b h
  exact ⟨t', c, r, ht', he⟩

end Sys2Proof.Machine

/-! The RAMs of a snapshot in terms of the two stages' sequences (O48). -/

namespace Sys2Proof.Machine

/-- Every survivor is a recurrence value below N, recentred (42_frequency_interleaver.md R174). -/
theorem mem_survivors_bounds {N : Nat} {v : Int} (h : v ∈ survivors N) :
    -((N : Int) / 2) ≤ v ∧ v < (N : Int) - (N : Int) / 2 := by
  obtain ⟨d, hd, rfl⟩ := List.mem_map.1 h
  have hlt : d < N := by
    obtain ⟨hmem, -⟩ := List.mem_filter.1 hd
    cases N with
    | zero => simp [lcrValues, lcrFrom] at hmem
    | succ n => exact lcrFrom_lt n.succ_pos _ _ n.succ_pos d hmem
  simp only [recentre, fdiv_eq]
  omega

theorem toInt_trunc_twelve {v : Int} (h1 : -1024 ≤ v) (h2 : v ≤ 1024) : (trunc 12 v).toInt = v := by
  rw [trunc, BitVec.toInt_ofInt]
  exact Int.bmod_eq_of_le (by omega) (by omega)

/-- What a successful derivation commits: the PRN stage's codes, the survivor sequence and its array form, each array index in
[0, K) (40_commands.md R121; 42_frequency_interleaver.md R187, R190). -/
theorem derivation_sequences {rom : Rom} {m : Mode} {p : Snapshot} (h : derivation rom m = .ok p) :
    prnStage rom m = .ok p.prn ∧ p.fis = survivors (fftLengthOf rom m) ∧
      p.ilv = (arrayForm (carriersOf rom m) p.fis).map Int.toNat ∧
      ∀ j, j < carriersOf rom m → arrayBad (carriersOf rom m) (arrayForm (carriersOf rom m) p.fis) j = false := by
  obtain ⟨hprn, hfi⟩ := derivation_ok h
  obtain ⟨-, -, -, harray, -, he⟩ := fiChecks_ok hfi
  simp only [FiResult.mk.injEq] at he
  obtain ⟨hfis, hilv, -⟩ := he
  rw [← hfis] at hilv harray
  exact ⟨hprn, hfis, hilv, (firstBad_eq_none _ _).1 harray⟩

/-- An index that passes the array check is a position below K (42_frequency_interleaver.md R187). -/
theorem arrayIndex_bounds_of_not_arrayBad {K j : Nat} {S : List Int} {v : Int} (hv : S[j]? = some v)
    (h : arrayBad K (arrayForm K S) j = false) : 0 ≤ arrayIndex K v ∧ arrayIndex K v < K := by
  have hget : (arrayForm K S).getD j 0 = arrayIndex K v := by simp [arrayForm, hv]
  rw [arrayBad, hget] at h
  simp only [decide_eq_false_iff_not, not_or] at h
  obtain ⟨h1, h2, -⟩ := h
  omega

/-- In a state of the invariant with a mode active, the RAMs hold that mode's derivation over an admitted ROM set. -/
theorem State.Inv.snapshot {s : State} {m : Mode} (h : s.Inv) (hv : s.status.valid = true)
    (hm : modeOfField s.status.activeMode = some m) :
    s.rom.admitted = true ∧ ∃ p, derivation s.rom m = .ok p ∧ holdsSnapshot s.mem p := by
  obtain ⟨hok, m', p, hm', hp, hold⟩ := h.validIsComplete hv
  obtain ⟨ha, -⟩ := h.romOkIsTrue hok
  obtain rfl : m = m' := Option.some.inj (hm.symm.trans hm')
  exact ⟨ha, p, hp, hold⟩

/-- Settles O48: the RAMs hold the derivation, whose sequences fit their entries without loss. -/
theorem fisRamHoldsTheSurvivorSequence : Obligations.FisRamHoldsTheSurvivorSequence := by
  intro s m h hv hm
  obtain ⟨ha, p, hp, hold⟩ := h.snapshot hv hm
  obtain ⟨hprn, hfis, hilv, hpass⟩ := derivation_sequences hp
  obtain ⟨hlprn, hlfis, -, -⟩ := derivation_lengths ha hp
  obtain ⟨-, -, hK, -, -, hN, -, -⟩ := Rom.admitted_bounds ha m
  refine ⟨p.prn, hprn, hlprn, fun j hj => ?_⟩
  obtain ⟨hprnj, hfisj, hilvj, -⟩ := hold j (hlprn ▸ hj)
  obtain ⟨v, hS⟩ : ∃ v, p.fis[j]? = some v := ⟨_, List.getElem?_eq_getElem (hlfis ▸ hj)⟩
  have hband := mem_survivors_bounds (hfis ▸ List.mem_of_getElem? hS)
  have hint : (trunc 12 v).toInt = v := toInt_trunc_twelve (by omega) (by omega)
  obtain ⟨hpos, hlt⟩ := arrayIndex_bounds_of_not_arrayBad hS (hpass j hj)
  refine ⟨hprnj, trunc 12 v, BitVec.ofNat 11 (arrayIndex (carriersOf s.rom m) v).toNat, ?_, ?_, ?_, ?_⟩
  · rw [hfisj, List.getElem?_map, hS, Option.map_some]
  · rw [hilvj, hilv, arrayForm, List.getElem?_map, List.getElem?_map, List.getElem?_map, hS]
    rfl
  · rw [hint]
    exact hfis ▸ hS
  · rw [hint, BitVec.toNat_ofNat, Nat.mod_eq_of_lt (by omega), Int.toNat_of_nonneg hpos]
    rfl

end Sys2Proof.Machine

/-! The port's transactions that change nothing but its answer, and the ROMs (O10, O11, O12, O53). -/

namespace Sys2Proof.Machine

/-! Transactions without effect (20_memory.md R64, R68, R69). -/

/-- Settles O10: a misaligned transaction only answers. -/
theorem misalignedTransactionsHaveNoEffect : Obligations.MisalignedTransactionsHaveNoEffect := by
  intro s a rest ha
  have hmis : aligned a = false := decide_eq_false ha
  exact ⟨fun hag => (step_of_cons hag).trans (busRead_of_misaligned hmis),
    fun v hag => (step_of_cons hag).trans (busWrite_of_misaligned hmis)⟩

/-- Settles O11: CMD stands at offset 0 alone, and every other write is ignored. -/
theorem writesOutsideCmdAreIgnored : Obligations.WritesOutsideCmdAreIgnored := by
  intro s a v rest ha hne hag
  exact (step_of_cons hag).trans (busWrite_of_ignored ((aligned_iff a).2 ha) (mt regionOf_eq_cmd hne))

/-! Reads (20_memory.md R71). -/

theorem readWord_setAgenda (s : State) (rest : List Event) (a : Addr) :
    readWord (setAgenda rest s) a = readWord s a := readWord_congr rfl rfl rfl rfl a

theorem readWord_respond (s : State) (r : Response) (a : Addr) : readWord (respond r s) a = readWord s a :=
  readWord_congr rfl rfl rfl rfl a

theorem readWord_setEngLeft (s : State) (n : Nat) (a : Addr) : readWord (setEngLeft n s) a = readWord s a :=
  readWord_congr rfl rfl rfl rfl a

theorem busRead_responds {a : Addr} {s t : State} (h : busRead a s = .next t) :
    ∃ c w, t = respond (.read c w) s := by
  rcases busRead_cases h with ⟨-, w, -, rfl⟩ | ⟨-, rfl⟩ <;> exact ⟨_, _, rfl⟩

/-- What a read answers depends on the word at its address alone. -/
theorem busRead_resp_congr {a : Addr} {s s' t t' : State} (hword : readWord s' a = readWord s a)
    (h : busRead a s = .next t) (h' : busRead a s' = .next t') : t'.resp = t.resp := by
  rcases busRead_cases h with ⟨ha, w, hw, rfl⟩ | ⟨ha, rfl⟩
  · rw [busRead_of_ok ha (hword.trans hw)] at h'
    cases h'
    rfl
  · rw [busRead_of_misaligned ha] at h'
    cases h'
    rfl

/-- A read, or a write to another offset than CMD's, only answers. -/
theorem transact_responds_of_quiet {x : Txn} {s t : State} (hq : (Event.host x).quiet = true)
    (h : transact x s = .next t) : ∃ r, t = respond r s := by
  cases x with
  | read a =>
    obtain ⟨c, w, rfl⟩ := busRead_responds h
    exact ⟨_, rfl⟩
  | write a v =>
    have hne : a ≠ 0x0000#16 := of_decide_eq_true hq
    rcases busWrite_cases h with ⟨-, hr, -⟩ | ⟨-, -, rfl⟩ | ⟨-, rfl⟩
    · exact absurd (regionOf_eq_cmd hr) hne
    · exact ⟨_, rfl⟩
    · exact ⟨_, rfl⟩

/-- The engine completes nothing in its turns among the moves: it is idle, or has enough steps left. -/
def NoCompletion (moves : List Event) (s : State) : Prop := s.eng.op = .idle ∨ engineTurns moves ≤ s.eng.left

theorem engineTurns_engine_cons (moves : List Event) : engineTurns (.engine :: moves) = engineTurns moves + 1 := by
  simp [engineTurns]

theorem engineTurns_host_cons (x : Txn) (moves : List Event) : engineTurns (.host x :: moves) = engineTurns moves := by
  simp [engineTurns]

/-- An engine turn short of completion leaves every word as it was, and one turn less to count. -/
theorem engineStep_noCompletion {moves : List Event} {s t : State} (hn : NoCompletion (.engine :: moves) s)
    (h : engineStep s = .next t) :
    t.agenda = s.agenda ∧ (∀ a, readWord t a = readWord s a) ∧ NoCompletion moves t := by
  rw [NoCompletion, engineTurns_engine_cons] at hn
  rcases engineStep_cases h with ⟨ho, rfl⟩ | ⟨ho, n, hl, rfl⟩ | ⟨ho, hl, -, -⟩ | ⟨ho, hl, -, -⟩
  · exact ⟨rfl, fun _ => rfl, .inl ho⟩
  · obtain hle : engineTurns moves + 1 ≤ s.eng.left := hn.resolve_left ho
    exact ⟨rfl, readWord_setEngLeft s n, .inr (show engineTurns moves ≤ n by omega)⟩
  · simp [ho, hl] at hn
  · simp [ho, hl] at hn

/-- A quiet move leaves every word as it was. -/
theorem step_of_quiet {e : Event} {moves rest : List Event} {s t : State} (hag : s.agenda = e :: (moves ++ rest))
    (hq : e.quiet = true) (hn : NoCompletion (e :: moves) s) (h : step s = .next t) :
    t.agenda = moves ++ rest ∧ (∀ a, readWord t a = readWord s a) ∧ NoCompletion moves t := by
  rw [step_of_cons hag] at h
  cases e with
  | engine =>
    obtain ⟨hrest, hword, hn'⟩ := engineStep_noCompletion (s := setAgenda (moves ++ rest) s) hn h
    exact ⟨hrest, fun a => (hword a).trans (readWord_setAgenda s _ a), hn'⟩
  | host x =>
    obtain ⟨r, rfl⟩ := transact_responds_of_quiet hq h
    rw [NoCompletion, engineTurns_host_cons] at hn
    exact ⟨rfl, fun a => (readWord_respond _ r a).trans (readWord_setAgenda s _ a), hn⟩
  | reset => cases hq

/-- Quiet moves leave every word as it was. -/
theorem runMoves_of_quiet {moves rest : List Event} {s t : State} (hag : s.agenda = moves ++ rest)
    (hq : ∀ e ∈ moves, e.quiet = true) (hn : NoCompletion moves s) (h : runMoves moves.length s = .next t) :
    t.agenda = rest ∧ ∀ a, readWord t a = readWord s a := by
  induction moves generalizing s with
  | nil => cases h; exact ⟨hag, fun _ => rfl⟩
  | cons e moves ih =>
    obtain ⟨u, hu, ht⟩ := runMoves_cases h
    obtain ⟨hrest, hword, hn'⟩ := step_of_quiet hag (hq e List.mem_cons_self) hn hu
    obtain ⟨hend, hwords⟩ := ih hrest (fun e' he' => hq e' (List.mem_cons_of_mem e he')) hn' ht
    exact ⟨hend, fun a => (hwords a).trans (hword a)⟩

/-- Settles O12: a read only answers, and the quiet moves after it leave the word it answered. -/
theorem readsHaveNoSideEffect : Obligations.ReadsHaveNoSideEffect := by
  refine ⟨fun s t a rest hag h => ?_, fun s t u v a between rest hag hq hn hs hrun hu => ?_⟩
  · rw [step_of_cons hag] at h
    exact busRead_responds h
  · rw [step_of_cons hag] at hs
    obtain ⟨c, w, rfl⟩ := busRead_responds hs
    obtain ⟨hend, hword⟩ := runMoves_of_quiet (s := respond (.read c w) (setAgenda _ s)) rfl hq hn hrun
    rw [step_of_cons hend] at hu
    refine busRead_resp_congr ?_ hs hu
    rw [readWord_setAgenda, hword, readWord_respond]

/-! The ROMs (20_memory.md R75, 70_reset_and_hazards.md R240). -/

theorem completeSelftest_rom (s : State) : (completeSelftest s).rom = s.rom := by
  rcases completeSelftest_cases s with ⟨r, -, e⟩ | ⟨-, e⟩ <;> rw [e] <;> rfl

theorem engineStep_rom {s t : State} (h : engineStep s = .next t) : t.rom = s.rom := by
  rcases engineStep_cases h with ⟨-, rfl⟩ | ⟨-, n, -, rfl⟩ | ⟨-, -, -, rfl⟩ | ⟨-, -, -, hc⟩
  · rfl
  · rfl
  · exact completeSelftest_rom s
  · obtain ⟨m, -, ⟨r, -, rfl⟩ | ⟨p, -, rfl⟩⟩ := completeDerive_cases hc <;> rfl

theorem exec_rom {i : Instr} {s t : State} (h : exec i s = .next t) : t.rom = s.rom := by
  rcases exec_cases h with ⟨-, rfl⟩ | ⟨-, rfl⟩ | ⟨-, rfl⟩ | ⟨f, -, ⟨-, rfl⟩ | ⟨-, -, rfl⟩ | ⟨-, -, rfl⟩⟩ <;> rfl

theorem cmdWrite_rom {w : Word} {s t : State} (h : cmdWrite w s = .next t) : t.rom = s.rom := by
  rcases cmdWrite_cases h with ⟨-, rfl⟩ | ⟨-, i, -, he⟩ | ⟨-, why, -, rfl⟩
  · rfl
  · exact exec_rom he
  · rfl

theorem step_rom {s t : State} (h : step s = .next t) : t.rom = s.rom := by
  rcases step_moves h with ⟨-, rest, he⟩ | ⟨rest, -, rfl⟩ | ⟨r, rest, rfl⟩ | ⟨w, rest, -, hw⟩
  · exact engineStep_rom (s := setAgenda rest s) he
  · rfl
  · rfl
  · exact cmdWrite_rom (s := respond (.write .okay) (setAgenda rest s)) hw

/-- Settles O53, by induction over the run's moves. -/
theorem romsNeverChange : Obligations.RomsNeverChange := by
  intro n s t h
  exact runMoves_induction (P := fun u => u.rom = s.rom) (fun _ _ hu hstep => (step_rom hstep).trans hu) rfl h

end Sys2Proof.Machine

/-! What the four windows show, and the byte lanes of a word (O5, O18, O19, O20, O21). -/

namespace Sys2Proof.Machine

/-! Byte lanes (20_memory.md R62). -/

theorem laneOf_toNat (w : Word) (i : Nat) : (laneOf w i).toNat = w.toNat / 2 ^ (8 * i) % 256 := by
  rw [laneOf, BitVec.extractLsb'_toNat, Nat.shiftRight_eq_div_pow]

theorem wordOfLanes_toNat (b0 b1 b2 b3 : Byte) :
    (wordOfLanes b0 b1 b2 b3).toNat =
      b0.toNat + 2 ^ 8 * b1.toNat + 2 ^ 16 * b2.toNat + 2 ^ 24 * b3.toNat := by
  simp only [wordOfLanes, toNat_append_eq_mul_add 8]
  omega

/-- Settles O5: a word is the sum of its lanes in base 256. -/
theorem byteLanesAreLittleEndian : Obligations.ByteLanesAreLittleEndian := by
  refine ⟨fun w i _ => laneOf_toNat w i, fun w => BitVec.eq_of_toNat_eq ?_, fun b0 b1 b2 b3 => ?_⟩
  · have hw := w.isLt
    simp only [wordOfLanes_toNat, laneOf_toNat]
    omega
  · have h0 := b0.isLt
    have h1 := b1.isLt
    have h2 := b2.isLt
    have h3 := b3.isLt
    simp only [lanesOfWord, List.cons.injEq, and_true, ← BitVec.toNat_inj, laneOf_toNat, wordOfLanes_toNat]
    omega

/-! The word formats (20_memory.md R78 to R80). -/

/-- The four unit words, by phase code. -/
theorem formatPrn_cases (phi : PhaseCode) :
    formatPrn phi = 0x00000100#32 ∨ formatPrn phi = 0x00010001#32 ∨ formatPrn phi = 0x0000FF02#32 ∨
      formatPrn phi = 0x00FF0003#32 := by
  revert phi
  decide

theorem formatIlv_toNat (v : BitVec 11) : (formatIlv v).toNat = v.toNat := BitVec.toNat_setWidth_of_le (by decide)

theorem formatDil_toNat (v : BitVec 11) : (formatDil v).toNat = v.toNat := BitVec.toNat_setWidth_of_le (by decide)

theorem toNat_ofNat_eleven_lt {v K : Nat} (h : v < K) : (BitVec.ofNat 11 v).toNat < K := by
  rw [BitVec.toNat_ofNat]
  exact Nat.lt_of_le_of_lt (Nat.mod_le _ _) h

/-- Settles O20: sign extension to a wider word keeps the signed value. -/
theorem fisWordIsTheSignedEntry : Obligations.FisWordIsTheSignedEntry :=
  ⟨fun _ => BitVec.toInt_signExtend_of_le (by decide), by decide, by decide⟩

/-! The windows (20_memory.md R67). -/

theorem readWord_window {s : State} {a : Addr} {x : Window} {j : Nat} (h : regionOf a = .window x j) :
    readWord s a = readWindow s x j := by
  simp only [readWord, h]

/-- Below K a window shows its RAM's word. -/
theorem readWord_window_of_lt {s : State} {m : Mode} {a : Addr} {x : Window} {j : Nat} (hv : s.status.valid = true)
    (hm : modeOfField s.status.activeMode = some m) (hj : j < carriersOf s.rom m) (h : regionOf a = .window x j) :
    readWord s a = .ok (ramWord s.mem x j) := by
  rw [readWord_window h, readWindow_of_valid hv hm, if_pos hj]

/-- A window shows 0 while no snapshot stands, and from K on. -/
theorem readWord_window_masked {s : State} {m : Mode} {a : Addr} {x : Window} {j : Nat}
    (hmask : s.status.valid = false ∨ (modeOfField s.status.activeMode = some m ∧ carriersOf s.rom m ≤ j))
    (h : regionOf a = .window x j) : readWord s a = .ok 0x00000000#32 := by
  rw [readWord_window h]
  cases hv : s.status.valid with
  | false => exact readWindow_of_invalid hv x j
  | true =>
    obtain ⟨hm, hj⟩ := hmask.resolve_left (by simp [hv])
    rw [readWindow_of_valid hv hm, if_neg (Nat.not_lt.2 hj)]

/-- Settles O18: each base plus 4*j is its window's entry j. -/
theorem windowsReadTheirRams : Obligations.WindowsReadTheirRams := by
  refine ⟨fun s m j hW hv hm hj => ?_, fun s m base j hbase hW hmask => ?_⟩
  · obtain ⟨hprn, hfis, hilv, hdil⟩ := regionOf_window j hW
    refine ⟨fun v hr => ?_, fun v hr => ?_, fun v hr => ?_, fun v hr => ?_⟩
    · rw [readWord_window_of_lt hv hm hj hprn, ramWord, hr]; rfl
    · rw [readWord_window_of_lt hv hm hj hfis, ramWord, hr]; rfl
    · rw [readWord_window_of_lt hv hm hj hilv, ramWord, hr]; rfl
    · rw [readWord_window_of_lt hv hm hj hdil, ramWord, hr]; rfl
  · obtain ⟨hprn, hfis, hilv, hdil⟩ := regionOf_window j hW
    rcases hbase with rfl | rfl | rfl | rfl
    · exact readWord_window_masked hmask hprn
    · exact readWord_window_masked hmask hfis
    · exact readWord_window_masked hmask hilv
    · exact readWord_window_masked hmask hdil

/-- While VALID = 1 the entries below K of the PRN, ILV and DIL windows are those of the mode's derivation. -/
theorem State.Inv.window_entries {s : State} {m : Mode} {j : Nat} (h : s.Inv) (hv : s.status.valid = true)
    (hm : modeOfField s.status.activeMode = some m) (hj : j < carriersOf s.rom m) :
    ∃ p phi u v, derivation s.rom m = .ok p ∧ phi ∈ p.prn ∧ u ∈ p.ilv ∧ v ∈ p.dil ∧
      readWord s (BitVec.ofNat 16 (0x2000 + 4 * j)) = .ok (formatPrn phi) ∧
      readWord s (BitVec.ofNat 16 (0x6000 + 4 * j)) = .ok (formatIlv (BitVec.ofNat 11 u)) ∧
      readWord s (BitVec.ofNat 16 (0x8000 + 4 * j)) = .ok (formatDil (BitVec.ofNat 11 v)) := by
  obtain ⟨ha, p, hp, hold⟩ := h.snapshot hv hm
  obtain ⟨-, -, hK, -⟩ := Rom.admitted_bounds ha m
  obtain ⟨hlprn, -, hlilv, hldil⟩ := derivation_lengths ha hp
  obtain ⟨hprn, -, hilv, hdil⟩ := hold j (hlprn ▸ hj)
  rw [List.getElem?_eq_getElem (hlprn ▸ hj)] at hprn
  rw [List.getElem?_map, List.getElem?_eq_getElem (hlilv ▸ hj)] at hilv
  rw [List.getElem?_map, List.getElem?_eq_getElem (hldil ▸ hj)] at hdil
  obtain ⟨shown, -⟩ := windowsReadTheirRams
  obtain ⟨showPrn, -, showIlv, showDil⟩ := shown s m j (by omega) hv hm hj
  exact ⟨p, _, _, _, hp, List.getElem_mem _, List.getElem_mem _, List.getElem_mem _, showPrn _ hprn, showIlv _ hilv,
    showDil _ hdil⟩

/-- Settles O19: every entry below K is a phase code, and a phase code has one of four words. -/
theorem prnWindowShowsOnlyTheFourUnitWords : Obligations.PrnWindowShowsOnlyTheFourUnitWords := by
  refine ⟨by decide, fun s m j h hv hm hj => ?_⟩
  obtain ⟨-, phi, -, -, -, -, -, -, hprn, -⟩ := h.window_entries hv hm hj
  exact ⟨formatPrn phi, hprn, formatPrn_cases phi⟩

/-! The indices of a snapshot (42_frequency_interleaver.md R187, R188). -/

/-- The inverse holds positions of the writes, or what stood there before. -/
theorem mem_writeInverse {start v : Nat} {vs dil : List Nat} (h : v ∈ writeInverse start vs dil) :
    v ∈ dil ∨ v < start + vs.length := by
  induction vs generalizing start dil with
  | nil => exact .inl h
  | cons x vs ih =>
    rw [List.length_cons]
    rcases ih h with hset | hlt
    · rcases List.mem_or_eq_of_mem_set hset with hmem | rfl
      · exact .inl hmem
      · exact .inr (by omega)
    · exact .inr (by omega)

theorem lt_of_mem_inverseOf {K v : Nat} {ilv : List Nat} (hlen : ilv.length = K) (h : v ∈ inverseOf K ilv) : v < K := by
  rcases mem_writeInverse h with hzero | hlt
  · obtain ⟨hK, rfl⟩ := List.mem_replicate.1 hzero
    omega
  · omega

/-- Array indices that pass the array check are positions below K. -/
theorem lt_of_mem_arrayForm {K v : Nat} {S : List Int} (hlen : S.length = K)
    (hpass : ∀ j, j < K → arrayBad K (arrayForm K S) j = false) (h : v ∈ (arrayForm K S).map Int.toNat) : v < K := by
  rw [arrayForm, List.map_map] at h
  obtain ⟨x, hx, rfl⟩ := List.mem_map.1 h
  obtain ⟨j, hj⟩ := List.mem_iff_getElem?.1 hx
  obtain ⟨hjlt, -⟩ := List.getElem?_eq_some_iff.1 hj
  obtain ⟨hpos, hlt⟩ := arrayIndex_bounds_of_not_arrayBad hj (hpass j (hlen ▸ hjlt))
  simp only [Function.comp_apply]
  omega

/-- A derivation's two index sequences stay below K. -/
theorem derivation_indices_lt {rom : Rom} {m : Mode} {p : Snapshot} (h : derivation rom m = .ok p) :
    (∀ u ∈ p.ilv, u < carriersOf rom m) ∧ ∀ v ∈ p.dil, v < carriersOf rom m := by
  obtain ⟨-, hfi⟩ := derivation_ok h
  obtain ⟨-, hlilv, -⟩ := fiStage_lengths hfi
  obtain ⟨hlen, -, -, harray, -, he⟩ := fiChecks_ok hfi
  simp only [FiResult.mk.injEq] at he
  obtain ⟨-, hilv, hdil⟩ := he
  rw [← hilv] at hdil
  rw [hilv, hdil]
  exact ⟨fun u hu => lt_of_mem_arrayForm hlen ((firstBad_eq_none _ _).1 harray) hu,
    fun v hv => lt_of_mem_inverseOf hlilv hv⟩

/-- Settles O21: the windows show the derivation's index sequences, zero-extended. -/
theorem indexWindowsShowIndicesBelowK : Obligations.IndexWindowsShowIndicesBelowK := by
  refine ⟨fun v => ⟨formatIlv_toNat v, formatDil_toNat v⟩, fun s m j h hv hm hj => ?_⟩
  obtain ⟨p, -, u, v, hp, -, hu, hv', -, hilv, hdil⟩ := h.window_entries hv hm hj
  obtain ⟨hiLt, hdLt⟩ := derivation_indices_lt hp
  refine ⟨_, _, hilv, hdil, ?_, ?_⟩
  · rw [formatIlv_toNat]
    exact toNat_ofNat_eleven_lt (hiLt u hu)
  · rw [formatDil_toNat]
    exact toNat_ofNat_eleven_lt (hdLt v hv')

end Sys2Proof.Machine

/-! The command encoding and the assembler (O1, O2, O3, O4, O6). -/

namespace Sys2Proof.Machine

/-! The fields of a command word (30_encoding.md R90). -/

theorem fields_append (w : Word) : opField w ++ rsvField w ++ modeField w = w := by
  have hhigh : opField w ++ rsvField w = w.extractLsb' 3 29 :=
    BitVec.extractLsb'_append_extractLsb'_eq_extractLsb' rfl
  rw [hhigh]
  exact BitVec.extractLsb'_append_extractLsb' (w := 29)

/-- What the decoder's test for DERIVE compares: OP and RSV, the MODE field masked out (30_encoding.md R95). -/
theorem and_deriveMask_eq_append (w : Word) : w &&& 0xFFFFFFF8#32 = opField w ++ rsvField w ++ 0#3 := by
  have hmask : 0xFFFFFFF8#32 = BitVec.allOnes 8 ++ BitVec.allOnes 21 ++ 0#3 := rfl
  conv_lhs => rw [← fields_append w, hmask, BitVec.and_append, BitVec.and_append]
  simp only [BitVec.and_allOnes, BitVec.and_zero]

theorem encode_fields (i : Instr) : Laws.Fields.Statement i := by
  cases i with
  | nop => exact Laws.Fields.nop
  | derive m => exact Laws.Fields.derive m
  | selftest => exact Laws.Fields.selftest
  | clearFault => exact Laws.Fields.clearFault

theorem eq_encode_iff_fields (w : Word) (i : Instr) :
    w = encode i ↔ opField w = opcodeOf i ∧ rsvField w = 0#21 ∧ modeField w = modeOperandOf i := by
  constructor
  · rintro rfl
    exact encode_fields i
  · rintro ⟨hop, hrsv, hmode⟩
    rw [← fields_append w, hop, hrsv, hmode]
    rfl

/-! The decoder inverts the encoder (30_encoding.md R95, R100). -/

/-- The test for DERIVE passes exactly on the DERIVE words: a common MODE field may be put under OP and RSV on both sides. -/
theorem and_deriveMask_eq_iff (w : Word) :
    w &&& 0xFFFFFFF8#32 = 0x01000000#32 ↔ w = encode (.derive (modeField w)) :=
  calc w &&& 0xFFFFFFF8#32 = 0x01000000#32
    _ ↔ opField w ++ rsvField w ++ 0#3 = 0x01#8 ++ 0#21 ++ 0#3 := by rw [and_deriveMask_eq_append]; rfl
    _ ↔ opField w ++ rsvField w = 0x01#8 ++ 0#21 := BitVec.append_left_inj _
    _ ↔ opField w ++ rsvField w ++ modeField w = 0x01#8 ++ 0#21 ++ modeField w := (BitVec.append_left_inj _).symm
    _ ↔ w = encode (.derive (modeField w)) := by rw [fields_append]; rfl

theorem decode_encode (i : Instr) : decode (encode i) = .command i := by
  cases i with
  | nop => rfl
  | derive m => revert m; decide
  | selftest => rfl
  | clearFault => rfl

theorem eq_encode_of_decode {w : Word} {i : Instr} (h : decode w = .command i) : w = encode i := by
  unfold decode at h
  split at h
  · next hw => cases h; exact hw
  split at h
  · next hw => cases h; exact (and_deriveMask_eq_iff w).1 hw
  split at h
  · next hw => cases h; exact hw
  split at h
  · next hw => cases h; exact hw
  · cases h

/-- Settles O2: the decoder's tests are equations with the commands' own words. -/
theorem decodeAndEncodeAgree : Obligations.DecodeAndEncodeAgree :=
  ⟨decode_encode, fun _ _ => eq_encode_of_decode⟩

/-! Illegal words (30_encoding.md R96). -/

theorem decode_illegal_iff (w : Word) : (∃ why, decode w = .illegal why) ↔ ¬ ∃ i, w = encode i := by
  constructor
  · rintro ⟨why, hw⟩ ⟨i, rfl⟩
    rw [decode_encode] at hw
    cases hw
  · intro hno
    cases hw : decode w with
    | command i => exact absurd ⟨i, eq_encode_of_decode hw⟩ hno
    | illegal why => exact ⟨why, rfl⟩

/-- The listed words: RSV is 0, and MODE is free under DERIVE's opcode only. -/
theorem exists_eq_encode_iff (w : Word) :
    (∃ i, w = encode i) ↔
      rsvField w = 0#21 ∧
        (opField w = 0x01#8 ∨
          ((opField w = 0x00#8 ∨ opField w = 0x02#8 ∨ opField w = 0x03#8) ∧ modeField w = 0#3)) := by
  simp only [eq_encode_iff_fields]
  constructor
  · rintro ⟨i, hop, hrsv, hmode⟩
    refine ⟨hrsv, ?_⟩
    cases i with
    | nop => exact .inr ⟨.inl hop, hmode⟩
    | derive m => exact .inl hop
    | selftest => exact .inr ⟨.inr (.inl hop), hmode⟩
    | clearFault => exact .inr ⟨.inr (.inr hop), hmode⟩
  · rintro ⟨hrsv, hop | ⟨hop | hop | hop, hmode⟩⟩
    · exact ⟨.derive (modeField w), hop, hrsv, rfl⟩
    · exact ⟨.nop, hop, hrsv, hmode⟩
    · exact ⟨.selftest, hop, hrsv, hmode⟩
    · exact ⟨.clearFault, hop, hrsv, hmode⟩

theorem opcode_lt_four_iff (op : BitVec 8) :
    op.toNat < 4 ↔ op = 0x01#8 ∨ op = 0x00#8 ∨ op = 0x02#8 ∨ op = 0x03#8 := by
  simp only [← BitVec.toNat_inj, BitVec.toNat_ofNat]
  omega

/-- The three classes of 30_encoding.md R96 are exactly the words that are not listed. -/
theorem decode_illegal_iff_fields (w : Word) :
    (∃ why, decode w = .illegal why) ↔
      (4 ≤ (opField w).toNat ∨
        ((opField w).toNat < 4 ∧ rsvField w ≠ 0#21) ∨
        ((opField w = 0x00#8 ∨ opField w = 0x02#8 ∨ opField w = 0x03#8) ∧ modeField w ≠ 0#3)) := by
  rw [decode_illegal_iff, exists_eq_encode_iff]
  have hop := opcode_lt_four_iff (opField w)
  have hone : opField w = 0x01#8 → ¬ (opField w = 0x00#8 ∨ opField w = 0x02#8 ∨ opField w = 0x03#8) := by
    intro h
    rw [h]
    decide
  rw [← Nat.not_lt]
  tauto

/-! The CMD write (40_commands.md R110, R111, R124). -/

theorem step_of_cmdWrite {s : State} {w : Word} {rest : List Event} (h : s.agenda = .host (.write 0x0000#16 w) :: rest) :
    step s = cmdWrite w (respond (.write .okay) (setAgenda rest s)) :=
  (step_of_cons h).trans (busWrite_of_cmd (a := 0x0000#16) rfl rfl)

theorem cmdWrite_of_busy {s : State} (w : Word) (hb : s.status.busy = true) :
    cmdWrite w s = .next (setOverrun true s) := by
  simp only [cmdWrite, hb, dropCommand]

theorem cmdWrite_of_command {s : State} {w : Word} {i : Instr} (hb : s.status.busy = false)
    (hw : decode w = .command i) : cmdWrite w s = exec i s := by
  simp only [cmdWrite, hb, hw]

theorem cmdWrite_of_illegal {s : State} {w : Word} {why : IllegalWord} (hb : s.status.busy = false)
    (hw : decode w = .illegal why) : cmdWrite w s = .next (raiseFault ⟨.illegalCmd, w⟩ s) := by
  simp only [cmdWrite, hb, hw, execIllegal]

/-- Settles O3: the illegal words are those no command encodes to; writing one is dropped or raises ILLEGAL_CMD. -/
theorem illegalWordsAreExactlyTheUnlistedOnes : Obligations.IllegalWordsAreExactlyTheUnlistedOnes := by
  refine ⟨decode_illegal_iff_fields, fun s w rest why hw hag => ⟨fun hb => ?_, fun hb => ?_⟩⟩
  · exact ⟨_, (step_of_cmdWrite hag).trans (cmdWrite_of_illegal hb hw), rfl, rfl, rfl⟩
  · exact (step_of_cmdWrite hag).trans (cmdWrite_of_busy w hb)

/-! The command words (30_encoding.md R100). -/

theorem encode_derive (m : BitVec 3) : encode (.derive m) = 0x01000000#32 ||| zext32 m := by
  revert m
  decide

/-- Settles O1: DERIVE by its operand, the other words and the worked examples by evaluation. -/
theorem commandWordsAreAsTheSpecWritesThem : Obligations.CommandWordsAreAsTheSpecWritesThem :=
  ⟨rfl, encode_derive, rfl, rfl, rfl, rfl, rfl, by decide⟩

/-! DERIVE of an invalid mode (30_encoding.md R97). -/

theorem exec_derive_of_noMode {f : BitVec 3} (h : modeOfField f = none) (s : State) :
    exec (.derive f) s = .next (raiseFault ⟨.invalidMode, zext32 f⟩ (dropSnapshot (clearFaultRecord s))) := by
  simp only [exec, execDerive, h]

/-- Settles O4: the words are DERIVE's own, and their operands name no mode. -/
theorem invalidModeWordsAreDeriveCommands : Obligations.InvalidModeWordsAreDeriveCommands := by
  intro m hm
  have hnone : modeOfField m = none := by
    rcases hm with rfl | rfl | rfl | rfl <;> rfl
  refine ⟨?_, fun s => ⟨_, exec_derive_of_noMode hnone s, rfl, rfl, rfl, rfl⟩⟩
  rw [← encode_derive, decode_encode]

/-! The assembler (30_encoding.md R98). -/

theorem assemble_derive_of_le {n : Nat} (h : n ≤ 7) :
    assemble (.derive n) = some (.derive (BitVec.ofNat 3 n)) := if_pos h

theorem assemble_derive_of_gt {n : Nat} (h : 7 < n) : assemble (.derive n) = none := if_neg (Nat.not_le.2 h)

/-- Settles O6: an operand up to 7 fits the MODE field, and an alias is its mode's number. -/
theorem assemblerTakesZeroToSeven : Obligations.AssemblerTakesZeroToSeven := by
  refine ⟨rfl, rfl, rfl, fun n hn => ⟨_, assemble_derive_of_le hn, ?_⟩,
    fun _ => assemble_derive_of_gt, rfl, rfl, rfl, rfl⟩
  rw [BitVec.toNat_ofNat, Nat.mod_eq_of_lt (by omega)]

end Sys2Proof.Machine

/-! The accepted CMD write, and the commands that end at once (O7, O8, O9, O23, O24). -/

namespace Sys2Proof.Machine

/-- Settles O7: the CMD write's three cases, each over the state that has answered OKAY. -/
theorem cmdWriteRunsTheDecodedCommand : Obligations.CmdWriteRunsTheDecodedCommand := by
  intro s w rest hag
  have hstep := step_of_cmdWrite hag
  exact ⟨fun hb => hstep.trans (cmdWrite_of_busy w hb), fun hb _ hw => hstep.trans (cmdWrite_of_command hb hw),
    fun hb _ hw => hstep.trans (cmdWrite_of_illegal hb hw)⟩

/-- Settles O9: the dropped write's whole next state. -/
theorem busyCmdWriteOnlySetsOverrun : Obligations.BusyCmdWriteOnlySetsOverrun := fun _ w _ hag hb =>
  (step_of_cmdWrite hag).trans (cmdWrite_of_busy w hb)

/-! The word the host numbers (30_encoding.md R91, R95; log entry 6). -/

theorem wordOfTableBits_toNat (w : Word) : wordOfTableBits 32 w.toNat = w := by
  rw [wordOfTableBits, Nat.mod_eq_of_lt w.isLt, BitVec.ofNat_toNat, BitVec.setWidth_eq]

/-- The decoder over a word's own byte lanes reads that word. -/
theorem decodeBytes_lanesOfWord (w : Word) : decodeBytes (lanesOfWord w) = some (decode w, []) := by
  obtain ⟨-, hlanes, -⟩ := byteLanesAreLittleEndian
  simp only [lanesOfWord, decodeBytes, hlanes]

theorem decodeTableWord_toNat {w : Word} {i : Instr} (h : decode w = .command i) :
    decodeTableWord 32 w.toNat = some i := by
  simp only [decodeTableWord, wordOfTableBits_toNat, decodeBytes_lanesOfWord, h]

/-- Settles O8: withFetchWord puts the word's own CMD write first, before an idle engine. -/
theorem fetchWordStepRunsTheCommand : Obligations.FetchWordStepRunsTheCommand := by
  refine fun s w i hw => ⟨decodeTableWord_toNat hw, ?_⟩
  rw [State.withFetchWord, wordOfTableBits_toNat]
  exact (step_of_cmdWrite rfl).trans (cmdWrite_of_command rfl hw)

/-! NOP and CLEAR_FAULT (40_commands.md R112, R122). -/

/-- No command but NOP has opcode 0x00, and NOP's word is zero. -/
theorem illegal_of_opField_zero {w : Word} (hop : opField w = 0x00#8) (hne : w ≠ 0x00000000#32) :
    ∃ why, decode w = .illegal why := by
  rw [decode_illegal_iff]
  rintro ⟨i, hw⟩
  obtain ⟨hopi, -, -⟩ := (eq_encode_iff_fields w i).1 hw
  rw [hop] at hopi
  cases i with
  | nop => exact hne hw
  | derive m => exact absurd (show 0x00#8 = 0x01#8 from hopi) (by decide)
  | selftest => exact absurd hopi (by decide)
  | clearFault => exact absurd hopi (by decide)

/-- Settles O23: NOP's word is the only one of its opcode, and a NOP while BUSY = 1 is a dropped CMD write. -/
theorem nopChangesNothing : Obligations.NopChangesNothing :=
  ⟨fun _ => rfl, decode_encode .nop, fun _ => illegal_of_opField_zero,
    fun s rest => busyCmdWriteOnlySetsOverrun s 0x00000000#32 rest⟩

/-- Settles O24: CLEAR_FAULT is its two named updates. -/
theorem clearFaultClearsTheRecord : Obligations.ClearFaultClearsTheRecord :=
  ⟨decode_encode .clearFault, fun _ => rfl⟩

end Sys2Proof.Machine

/-! SELFTEST: acceptance, the consistency check, completion (O25, O26, O27). -/

namespace Sys2Proof.Machine

/-- Settles O25: the drawn latency is one more than the free value ENG.LEFT takes. -/
theorem selftestAcceptance : Obligations.SelftestAcceptance := fun s =>
  ⟨Config.latSelftest s.draws + 1, Nat.succ_pos _, rfl⟩

/-! The consistency check (40_commands.md R115). -/

theorem constCheckMode_of_not_frameIdentity {rom : Rom} {m : Mode} (h : ¬ frameIdentity (rom.mode m).consts) :
    constCheckMode rom m = some ⟨.constTable, BitVec.ofNat 32 m.number⟩ := if_pos h

theorem constCheckMode_of_not_symbolIdentity {rom : Rom} {m : Mode} (hf : frameIdentity (rom.mode m).consts)
    (hs : ¬ symbolIdentity (rom.mode m).consts) :
    constCheckMode rom m = some ⟨.constTable, 0x00000100#32 ||| BitVec.ofNat 32 m.number⟩ :=
  (if_neg (not_not_intro hf)).trans (if_pos hs)

theorem constCheckMode_eq_none_iff (rom : Rom) (m : Mode) :
    constCheckMode rom m = none ↔ frameIdentity (rom.mode m).consts ∧ symbolIdentity (rom.mode m).consts := by
  by_cases hf : frameIdentity (rom.mode m).consts
  · by_cases hs : symbolIdentity (rom.mode m).consts
    · exact iff_of_true ((if_neg (not_not_intro hf)).trans (if_neg (not_not_intro hs))) ⟨hf, hs⟩
    · simp [constCheckMode_of_not_symbolIdentity hf hs, hs]
  · simp [constCheckMode_of_not_frameIdentity hf, hf]

theorem constCheckModes_eq_findSome? (rom : Rom) (ms : List Mode) :
    constCheckModes rom ms = ms.findSome? (constCheckMode rom) := by
  induction ms with
  | nil => rfl
  | cons m ms ih =>
    rw [constCheckModes, List.findSome?_cons, ih]
    cases constCheckMode rom m <;> rfl

theorem constCheck_eq_none_iff (rom : Rom) : constCheck rom = none ↔ ∀ m, constCheckMode rom m = none := by
  rw [constCheck, constCheckModes_eq_findSome?, List.findSome?_eq_none_iff]
  exact ⟨fun h m => h m (by cases m <;> decide), fun h m _ => h m⟩

/-- In the check's order a mode comes after those of smaller number only. -/
theorem checkOrder_split (m : Mode) :
    ∃ pre post, [Mode.I, .II, .III, .IV] = pre ++ m :: post ∧ ∀ m' ∈ pre, m'.number < m.number := by
  cases m with
  | I => exact ⟨[], [.II, .III, .IV], rfl, by decide⟩
  | II => exact ⟨[.I], [.III, .IV], rfl, by decide⟩
  | III => exact ⟨[.I, .II], [.IV], rfl, by decide⟩
  | IV => exact ⟨[.I, .II, .III], [], rfl, by decide⟩

/-- The first mode that breaks an identity is the one reported. -/
theorem constCheck_of_first {rom : Rom} {m : Mode} {r : Raise}
    (hbefore : ∀ m' : Mode, m'.number < m.number → constCheckMode rom m' = none)
    (hr : constCheckMode rom m = some r) : constCheck rom = some r := by
  obtain ⟨pre, post, hsplit, hpre⟩ := checkOrder_split m
  rw [constCheck, constCheckModes_eq_findSome?, List.findSome?_eq_some_iff]
  exact ⟨pre, m, post, hsplit, hr, fun m' hm' => hbefore m' (hpre m' hm')⟩

/-- Settles O26: each mode's check is its two identities, and the first mode that fails is the one reported. -/
theorem constCheckReportsTheFirstFailingIdentity : Obligations.ConstCheckReportsTheFirstFailingIdentity := by
  intro rom
  simp only [← constCheckMode_eq_none_iff]
  refine ⟨constCheck_eq_none_iff rom, fun m hbefore => ⟨fun hf => ?_, fun hf hs => ?_⟩⟩
  · exact ⟨_, constCheck_of_first hbefore (constCheckMode_of_not_frameIdentity hf), rfl, by cases m <;> rfl⟩
  · exact ⟨_, constCheck_of_first hbefore (constCheckMode_of_not_symbolIdentity hf hs), rfl, by cases m <;> rfl⟩

/-! Completion (40_commands.md R116). -/

theorem step_of_completes_selftest {s : State} (h : completes .selftest s) (ha : s.rom.admitted = true) :
    step s = .next (completeSelftest (setAgenda s.agenda.tail s)) := by
  obtain ⟨ho, hl, -⟩ := id h
  exact (step_of_completes h).trans (engineStep_selftest ho hl ha)

/-- Settles O27: the check passes or raises, and the completion step follows it. -/
theorem selftestCompletion : Obligations.SelftestCompletion := by
  intro s h ha
  rw [step_of_completes_selftest h ha]
  rcases completeSelftest_cases (setAgenda s.agenda.tail s) with ⟨r, hr, e⟩ | ⟨hn, e⟩ <;> rw [e]
  · obtain hr : constCheck s.rom = some r := hr
    refine ⟨fun hn => ?_, fun r' hr' => ?_⟩
    · simp [hr] at hn
    · obtain rfl : r = r' := Option.some.inj (hr.symm.trans hr')
      rfl
  · obtain hn : constCheck s.rom = none := hn
    refine ⟨fun _ => rfl, fun r hr => ?_⟩
    simp [hn] at hr

end Sys2Proof.Machine

/-! DERIVE: acceptance, completion, the run from a CMD write to the snapshot, determinism; the frame of the four commands
(O28, O29, O30, O32, O58, O60). -/

namespace Sys2Proof.Machine

/-! Acceptance (40_commands.md R118, R119). -/

theorem exec_derive_of_romNotOk {f : BitVec 3} {m : Mode} {s : State} (hm : modeOfField f = some m)
    (hok : s.status.romOk = false) :
    exec (.derive f) s =
      .next (raiseFault ⟨.constTable, 0x00000000#32⟩ (dropSnapshot (clearFaultRecord s))) := by
  simp only [exec, execDerive, hm, dropSnapshot_status_romOk, clearFaultRecord_status_romOk, hok]

theorem exec_derive_of_romOk {f : BitVec 3} {m : Mode} {s : State} (hm : modeOfField f = some m)
    (hok : s.status.romOk = true) :
    exec (.derive f) s =
      .next (setEngMode f (startEngine .derive (Config.latDerive s.draws) (dropSnapshot (clearFaultRecord s)))) := by
  simp only [exec, execDerive, hm, dropSnapshot_status_romOk, clearFaultRecord_status_romOk, hok]

theorem modeOfField_eq_none_iff (f : BitVec 3) : modeOfField f = none ↔ ¬(1 ≤ f.toNat ∧ f.toNat ≤ 4) := by
  rw [← modeOfField_isSome_iff, Bool.not_eq_true, Option.isSome_eq_false_iff, Option.isNone_iff_eq_none]

/-- Settles O28: the mode check, the ROM gate, the start. -/
theorem deriveAcceptance : Obligations.DeriveAcceptance := by
  intro s f
  refine ⟨fun hf => exec_derive_of_noMode ((modeOfField_eq_none_iff f).2 hf) s, fun hf hok => ?_, fun hf hok => ?_⟩
  · obtain ⟨m, hm⟩ := Option.isSome_iff_exists.1 ((modeOfField_isSome_iff f).2 hf)
    exact exec_derive_of_romNotOk hm hok
  · obtain ⟨m, hm⟩ := Option.isSome_iff_exists.1 ((modeOfField_isSome_iff f).2 hf)
    exact ⟨Config.latDerive s.draws + 1, Nat.succ_pos _, exec_derive_of_romOk hm hok⟩

/-- Settles O32, command by command: no branch writes a RAM, a ROM, the agenda, the answer or ROM_OK. -/
theorem commandsChangeOnlyTheirOwnState : Obligations.CommandsChangeOnlyTheirOwnState := by
  intro i s
  obtain ⟨t, ht⟩ := exec_next i s
  refine ⟨t, ht, ?_⟩
  rcases exec_cases ht with ⟨rfl, rfl⟩ | ⟨rfl, rfl⟩ | ⟨rfl, rfl⟩ |
    ⟨f, rfl, ⟨-, rfl⟩ | ⟨-, -, rfl⟩ | ⟨-, -, rfl⟩⟩ <;> simp

/-! The derivation and its two stages (40_commands.md R121). -/

theorem derivation_of_ok {rom : Rom} {m : Mode} {out : List PhaseCode} {f : FiResult} (hprn : prnStage rom m = .ok out)
    (hfi : fiStage rom m = .ok f) : derivation rom m = .ok ⟨out, f.fis, f.ilv, f.dil⟩ := by
  simp only [derivation, hprn, hfi]

theorem derivation_of_prnStage_error {rom : Rom} {m : Mode} {r : Raise} (hprn : prnStage rom m = .error r) :
    derivation rom m = .error r := by
  simp only [derivation, hprn]

theorem derivation_of_fiStage_error {rom : Rom} {m : Mode} {out : List PhaseCode} {r : Raise}
    (hprn : prnStage rom m = .ok out) (hfi : fiStage rom m = .error r) : derivation rom m = .error r := by
  simp only [derivation, hprn, hfi]

/-! Completion (40_commands.md R120). -/

/-- From K on a commit leaves the four RAMs as they were (10_state.md R35). -/
theorem ramRead_commitMemory_of_le {rom : Rom} {m : Mode} {p : Snapshot} (ha : rom.admitted = true)
    (hp : derivation rom m = .ok p) (mem : Memory) {j : Nat} (hj : carriersOf rom m ≤ j) :
    ramRead (commitMemory p mem).prn j = ramRead mem.prn j ∧ ramRead (commitMemory p mem).fis j = ramRead mem.fis j ∧
      ramRead (commitMemory p mem).ilv j = ramRead mem.ilv j ∧
      ramRead (commitMemory p mem).dil j = ramRead mem.dil j := by
  obtain ⟨hprn, hfis, hilv, hdil⟩ := derivation_lengths ha hp
  simp only [commitMemory, ramRead_ramCommit, List.length_map, hprn, hfis, hilv, hdil, if_neg (Nat.not_lt.2 hj),
    and_self]

theorem step_of_completes_derive {s : State} (h : completes .derive s) (ha : s.rom.admitted = true) :
    step s = completeDerive (setAgenda s.agenda.tail s) := by
  obtain ⟨ho, hl, -⟩ := id h
  exact (step_of_completes h).trans (engineStep_derive ho hl ha)

/-- What a completion step that succeeds with p leaves: the commit over the moves still to come. -/
def committed (p : Snapshot) (s : State) : State :=
  finishEngine (setSnapshot s.eng.mode (commitRams p (setAgenda s.agenda.tail s)))

theorem step_of_derivation_ok {s : State} {m : Mode} {p : Snapshot} (h : completes .derive s)
    (ha : s.rom.admitted = true) (hm : modeOfField s.eng.mode = some m) (hp : derivation s.rom m = .ok p) :
    step s = .next (committed p s) :=
  (step_of_completes_derive h ha).trans (completeDerive_ok hm hp)

theorem step_of_derivation_error {s : State} {m : Mode} {r : Raise} (h : completes .derive s)
    (ha : s.rom.admitted = true) (hm : modeOfField s.eng.mode = some m) (hr : derivation s.rom m = .error r) :
    step s = .next (forgetRams (raiseFault r (setAgenda s.agenda.tail s))) :=
  (step_of_completes_derive h ha).trans (completeDerive_error hm hr)

/-- Settles O29: the commit holds the snapshot below K and the old entries from K on. -/
theorem deriveCompletionCommitsTheSnapshot : Obligations.DeriveCompletionCommitsTheSnapshot := by
  refine ⟨fun rom m out f => derivation_of_ok, fun s m p h ha hm hp => ?_⟩
  refine ⟨commitMemory p s.mem, step_of_derivation_ok h ha ((modeOfField_eq_some_iff _ m).2 hm) hp, fun j hj => ?_,
    fun j hj => ramRead_commitMemory_of_le ha hp s.mem hj⟩
  obtain ⟨hlen, -⟩ := derivation_lengths ha hp
  simpa only [List.getElem?_map] using holdsSnapshot_commitMemory ha hp s.mem j (hlen ▸ hj)

/-- Settles O30: the PRN stage is asked first, and a derivation that raises ends in the fault's own state. -/
theorem faultingDeriveLeavesNoSnapshot : Obligations.FaultingDeriveLeavesNoSnapshot :=
  ⟨fun _ _ _ => derivation_of_prnStage_error, fun _ _ _ _ => derivation_of_fiStage_error,
    fun _ m _ h ha hm hr => ⟨Memory.absent, step_of_derivation_error h ha ((modeOfField_eq_some_iff _ m).2 hm) hr⟩⟩

/-! From the CMD write to the snapshot (70_reset_and_hazards.md R252). -/

/-- With no other move to come the engine counts ENG.LEFT down to 0, one step at a time. -/
theorem runMoves_countdown {s : State} {n : Nat} (hag : s.agenda = []) (ho : s.eng.op ≠ .idle) (hl : s.eng.left = n)
    (k : Nat) : runMoves (n + k) s = runMoves k (setEngLeft 0 s) := by
  induction n generalizing s with
  | zero =>
    have hself : setEngLeft 0 s = s := by rw [← hl]; rfl
    rw [hself, Nat.zero_add]
  | succ n ih =>
    have hstep : step s = .next (setEngLeft n s) := (step_of_nil hag).trans (engineStep_running ho hl)
    rw [Nat.add_right_comm, runMoves_succ hstep]
    exact ih (s := setEngLeft n s) hag ho rfl

/-- The CMD write of DERIVE f on an idle block whose ROMs have passed the self-test starts the engine (40_commands.md R118). -/
theorem step_starts_derive {s : State} {w : Word} {f : BitVec 3} {m : Mode} {rest : List Event}
    (hag : s.agenda = .host (.write 0x0000#16 w) :: rest) (hb : s.status.busy = false) (hok : s.status.romOk = true)
    (hw : decode w = .command (.derive f)) (hm : modeOfField f = some m) :
    ∃ u, step s = .next u ∧ u.agenda = rest ∧ u.eng.op = .derive ∧ u.eng.mode = f ∧ u.rom = s.rom ∧
      u.status.fault = false ∧ u.faultInfo = 0x00000000#32 := by
  rw [step_of_cmdWrite hag, cmdWrite_of_command (s := respond (.write .okay) (setAgenda rest s)) hb hw]
  exact ⟨_, exec_derive_of_romOk hm hok, rfl, rfl, rfl, rfl, rfl, rfl⟩

/-- Settles O58: the CMD write starts the engine, which counts its latency down and commits. -/
theorem deriveRunsToItsSnapshot : Obligations.DeriveRunsToItsSnapshot := by
  intro s w f m p hw hag hb hok ha hf hp
  have hm := (modeOfField_eq_some_iff f m).2 hf
  obtain ⟨u, hstart, hend, ho, rfl, hrom, hnf, hinfo⟩ := step_starts_derive hag hb hok hw hm
  rw [← hrom] at ha hp ⊢
  have hcommit := step_of_derivation_ok (s := setEngLeft 0 u) ⟨ho, rfl, .inl hend⟩ ha hm hp
  refine ⟨u.eng.left + 1 + 1, committed p (setEngLeft 0 u), ?_, rfl, rfl, hnf, rfl, rfl, hinfo,
    holdsSnapshot_commitMemory ha hp u.mem,
    readConst_of_valid (s := committed p (setEngLeft 0 u)) rfl hm .numCarriers⟩
  rw [runMoves_succ hstart, runMoves_countdown hend (by simp [ho]) rfl, runMoves_succ hcommit, runMoves_zero]

/-! Determinism (40_commands.md R123). -/

theorem regionOf_eq_window {a : Addr} (h1 : 0x2000 ≤ a.toNat) (h2 : a.toNat < 0xA000) :
    ∃ x j, regionOf a = .window x j := by
  unfold regionOf
  rw [if_neg (by omega), if_neg (by omega), if_pos h2]
  split
  · exact ⟨_, _, rfl⟩
  split
  · exact ⟨_, _, rfl⟩
  split <;> exact ⟨_, _, rfl⟩

/-- Two states whose RAMs hold the same snapshot of the same mode show the same windows. -/
theorem readWindow_eq_of_holdsSnapshot {t t' : State} {m : Mode} {p : Snapshot} (hrom : t.rom = t'.rom)
    (hv : t.status.valid = true) (hv' : t'.status.valid = true) (hm : modeOfField t.status.activeMode = some m)
    (hm' : modeOfField t'.status.activeMode = some m) (hlen : p.prn.length = carriersOf t.rom m)
    (hold : holdsSnapshot t.mem p) (hold' : holdsSnapshot t'.mem p) (x : Window) (j : Nat) :
    readWindow t x j = readWindow t' x j := by
  rw [readWindow_of_valid hv hm, readWindow_of_valid hv' hm', ← hrom]
  by_cases hj : j < carriersOf t.rom m
  · obtain ⟨hprn, hfis, hilv, hdil⟩ := hold j (hlen ▸ hj)
    obtain ⟨hprn', hfis', hilv', hdil'⟩ := hold' j (hlen ▸ hj)
    rw [if_pos hj, if_pos hj, ramWord_congr (hprn.trans hprn'.symm) (hfis.trans hfis'.symm) (hilv.trans hilv'.symm)
      (hdil.trans hdil'.symm)]
  · rw [if_neg hj, if_neg hj]

/-- A completion step of DERIVE that answers a next state reads an admitted ROM set, and raises or commits. -/
theorem step_completes_derive_cases {s t : State} (h : completes .derive s) (ht : step s = .next t) :
    s.rom.admitted = true ∧ ∃ m, modeOfField s.eng.mode = some m ∧
      ((∃ r, derivation s.rom m = .error r ∧ t = forgetRams (raiseFault r (setAgenda s.agenda.tail s))) ∨
       (∃ p, derivation s.rom m = .ok p ∧ t = committed p s)) := by
  obtain ⟨ho, hl, -⟩ := id h
  cases ha : s.rom.admitted with
  | false =>
    rw [step_of_completes h, engineStep_refused (s := setAgenda s.agenda.tail s) (by simp [ho]) hl ha] at ht
    cases ht
  | true =>
    rw [step_of_completes_derive h ha] at ht
    exact ⟨rfl, completeDerive_cases ht⟩

/-- Settles O60: both steps follow the one derivation of the mode over the ROMs. -/
theorem deriveIsDeterministic : Obligations.DeriveIsDeterministic := by
  intro s s' t t' h h' hmode hrom hnf hnf' ht ht'
  obtain ⟨ha, m, hm, hcase⟩ := step_completes_derive_cases h ht
  obtain ⟨-, m', hm', hcase'⟩ := step_completes_derive_cases h' ht'
  obtain rfl : m = m' := Option.some.inj (hm.symm.trans (hmode ▸ hm'))
  rw [← hrom] at hcase'
  rcases hcase with ⟨r, hr, rfl⟩ | ⟨p, hp, rfl⟩
  · rcases hcase' with ⟨r', hr', rfl⟩ | ⟨p', hp', -⟩
    · obtain rfl : r = r' := Except.error.inj (hr.symm.trans hr')
      refine ⟨rfl, fun _ => ⟨rfl, rfl⟩, fun a h1 _ => ?_⟩
      rw [readWord_of_invalid rfl (by omega), readWord_of_invalid rfl (by omega)]
    · cases hr.symm.trans hp'
  · rcases hcase' with ⟨r', hr', -⟩ | ⟨p', hp', rfl⟩
    · cases hp.symm.trans hr'
    · obtain rfl : p = p' := Except.ok.inj (hp.symm.trans hp')
      obtain ⟨hlen, -⟩ := derivation_lengths ha hp
      refine ⟨hnf.trans hnf'.symm, fun hf => absurd (hnf.symm.trans hf) (by decide), fun a h1 h2 => ?_⟩
      obtain ⟨x, j, hx⟩ := regionOf_eq_window h1 h2
      rw [readWord_window hx, readWord_window hx]
      exact readWindow_eq_of_holdsSnapshot (t := committed p s) (t' := committed p s') hrom rfl rfl hm hm' hlen
        (holdsSnapshot_commitMemory ha hp s.mem) (holdsSnapshot_commitMemory ha hp s'.mem) x j

end Sys2Proof.Machine

/-! The PRN stage: the order of the carriers, each carrier's row, anchor and column, what the stage returns, where it stops,
and which ROMs it passes (O33 to O38). -/

namespace Sys2Proof.Machine

/-! The order of the carriers (41_prn_generator.md R141). -/

theorem pairwise_lt_carrierOrder (K : Nat) : (carrierOrder K).Pairwise (· < ·) := by
  simp only [carrierOrder, List.pairwise_append, List.pairwise_map, List.mem_map, List.mem_range]
  refine ⟨List.pairwise_lt_range.imp fun h => by omega, List.pairwise_lt_range.imp fun h => by omega, ?_⟩
  rintro _ ⟨i, hi, rfl⟩ _ ⟨j, -, rfl⟩
  omega

/-- The position of a carrier is the carrier moved up by K/2, less one past the 0 left out. -/
theorem position_of_carrierOrder {K j : Nat} {k : Int} (h : (carrierOrder K)[j]? = some k) :
    (j : Int) = if k < 0 then k + ((K / 2 : Nat) : Int) else k + ((K / 2 : Nat) : Int) - 1 := by
  rw [carrierOrder_getElem?] at h
  split at h
  · cases h
    rw [if_pos (by omega)]
    omega
  · split at h
    · cases h
      rw [if_neg (by omega)]
      omega
    · cases h

/-- Settles O33: the order is the negative carriers and then the positive ones, each ascending by 1. -/
theorem carriersAreVisitedInAscendingOrder : Obligations.CarriersAreVisitedInAscendingOrder := by
  intro K hK
  refine ⟨by rw [length_carrierOrder]; omega, pairwise_lt_carrierOrder K, fun k => ?_, fun j k h => ?_⟩
  · rw [mem_carrierOrder, Int.natCast_ediv, Nat.cast_ofNat]
  · rw [position_of_carrierOrder h, Int.natCast_ediv, Nat.cast_ofNat]

/-! The row, the anchor and the column of a carrier (41_prn_generator.md R142, R143, R144). -/

theorem rowIndex_of_neg {k : Int} (K : Nat) (h : k < 0) : rowIndex K k = (k + (K : Int) / 2) / 32 := if_pos h

theorem rowIndex_of_nonneg {k : Int} (K : Nat) (h : 0 ≤ k) : rowIndex K k = (k + (K : Int) / 2 - 1) / 32 :=
  if_neg h.not_gt

theorem anchor_of_neg {k : Int} (h : k < 0) : anchor k = 32 * (k / 32) := if_pos h

theorem anchor_of_nonneg {k : Int} (h : 0 ≤ k) : anchor k = 32 * ((k - 1) / 32) + 1 := if_neg h.not_gt

/-- A carrier lies among the 32 that begin at its anchor. -/
theorem anchor_bounds (k : Int) : anchor k ≤ k ∧ k ≤ anchor k + 31 := by
  rcases lt_or_ge k 0 with h | h
  · rw [anchor_of_neg h]; omega
  · rw [anchor_of_nonneg h]; omega

/-- Taking k - k' mod 32 changes nothing. -/
theorem phaseColumn_eq (k : Int) : (phaseColumn k : Int) = k - anchor k := by
  have := anchor_bounds k
  unfold phaseColumn
  omega

theorem phaseColumn_lt (k : Int) : phaseColumn k < 32 := by
  have := anchor_bounds k
  have := phaseColumn_eq k
  omega

/-- Settles O34, by the sign of the carrier. -/
theorem rowsAnchorsAndColumnsOfCarriers : Obligations.RowsAnchorsAndColumnsOfCarriers := by
  intro K k hK hk
  obtain ⟨-, hlo, hhi⟩ := (mem_carrierOrder K k).1 hk
  have hfdiv (a : Int) : a.fdiv 32 = a / 32 := Int.fdiv_eq_ediv_of_nonneg a (by decide)
  refine ⟨fun h => ?_, fun h => ?_, phaseColumn_eq k, phaseColumn_lt k⟩
  · rw [rowIndex_of_neg K h, anchor_of_neg h, hfdiv, hfdiv]
    omega
  · rw [rowIndex_of_nonneg K h.le, anchor_of_nonneg h.le, hfdiv, hfdiv]
    omega

/-- Settles O38: -1 and 1 fall on the two branches of the row index. -/
theorem boundaryCarriersUseDistinctRows : Obligations.BoundaryCarriersUseDistinctRows := by
  refine ⟨fun K hK hpos => ?_, by decide⟩
  rw [rowIndex_of_neg K (by decide), rowIndex_of_nonneg K (by decide)]
  omega

/-! What one carrier of the stage answers (41_prn_generator.md R144, R145). -/

theorem prnRowAt_of_getElem? {rows : List PrnRow} {K : Nat} {k : Int} {row : PrnRow}
    (hr : rows[(rowIndex K k).toNat]? = some row) : prnRowAt rows K k = row := by
  simp [prnRowAt, hr]

section Carrier
variable {rows : List PrnRow} (h : PhaseTable) {K : Nat} {k : Int} {row : PrnRow}
  (hr : rows[(rowIndex K k).toNat]? = some row)
include hr

theorem prnCarrier_of_outside (h1 : ¬(row.kMin.toInt ≤ k ∧ k ≤ row.kMax.toInt)) :
    prnCarrier rows h K k = .error ⟨.prnRowRange, trunc 32 k⟩ := by
  simp only [prnCarrier, prnRowAt_of_getElem? hr, if_pos h1]

theorem prnCarrier_of_anchor_ne (h1 : row.kMin.toInt ≤ k ∧ k ≤ row.kMax.toInt) (h2 : anchor k ≠ row.kAnchor.toInt) :
    prnCarrier rows h K k = .error ⟨.prnKprime, trunc 32 k⟩ := by
  simp only [prnCarrier, prnRowAt_of_getElem? hr, if_neg (not_not.2 h1), if_pos h2]

theorem prnCarrier_of_passes (h1 : row.kMin.toInt ≤ k ∧ k ≤ row.kMax.toInt) (h2 : anchor k = row.kAnchor.toInt) :
    prnCarrier rows h K k = .ok (phaseEntry h row.i (phaseColumn k) + row.n) := by
  simp only [prnCarrier, prnRowAt_of_getElem? hr, if_neg (not_not.2 h1), if_neg (not_not.2 h2)]

/-- A carrier with a code has passed both checks, and the code is the table's plus n. -/
theorem prnCarrier_ok {phi : PhaseCode} (hk : prnCarrier rows h K k = .ok phi) :
    row.kMin.toInt ≤ k ∧ k ≤ row.kMax.toInt ∧ anchor k = row.kAnchor.toInt ∧
      phi = phaseEntry h row.i (phaseColumn k) + row.n := by
  obtain ⟨hlo, hhi, ha⟩ := (prnCarrier_ok_iff h hr).1 ⟨phi, hk⟩
  exact ⟨hlo, hhi, ha, Except.ok.inj (hk.symm.trans (prnCarrier_of_passes h hr ⟨hlo, hhi⟩ ha))⟩

end Carrier

/-- phaseEntry is an entry of the table itself. -/
theorem phaseEntry_getElem? (h : PhaseTable) (i : BitVec 2) {col : Nat} (hc : col < 32) :
    ∃ codes, h[i.toNat]? = some codes ∧ codes[col]? = some (phaseEntry h i col) := by
  refine ⟨h[i.toNat]'i.isLt, Vector.getElem?_eq_getElem i.isLt, ?_⟩
  simp only [phaseEntry, Nat.mod_eq_of_lt hc]
  exact Vector.getElem?_eq_getElem hc

/-! What the stage answers (41_prn_generator.md R145, R147). -/

/-- The j-th code of a successful stage is the j-th carrier's own. -/
theorem prnStage_getElem? {rom : Rom} {m : Mode} {out : List PhaseCode} (h : prnStage rom m = .ok out) {j : Nat} {k : Int}
    (hk : (carrierOrder (carriersOf rom m))[j]? = some k) :
    ∃ phi, out[j]? = some phi ∧ prnCarrier (rom.mode m).prnRows rom.phaseH (carriersOf rom m) k = .ok phi := by
  obtain ⟨hlen, hcode⟩ := List.forall₂_iff_get.1 (prnWalk_ok h)
  obtain ⟨hj, rfl⟩ := List.getElem?_eq_some_iff.1 hk
  exact ⟨_, List.getElem?_eq_getElem (hlen ▸ hj), hcode j hj (hlen ▸ hj)⟩

/-- A carrier that fails after every earlier one has passed is the stage's failure. -/
theorem prnStage_error {rom : Rom} {m : Mode} {j : Nat} {k : Int} {r : Raise}
    (hk : (carrierOrder (carriersOf rom m))[j]? = some k)
    (hpre : ∀ j' k', j' < j → (carrierOrder (carriersOf rom m))[j']? = some k' →
      ∃ phi, prnCarrier (rom.mode m).prnRows rom.phaseH (carriersOf rom m) k' = .ok phi)
    (hr : prnCarrier (rom.mode m).prnRows rom.phaseH (carriersOf rom m) k = .error r) : prnStage rom m = .error r := by
  obtain ⟨hj, rfl⟩ := List.getElem?_eq_some_iff.1 hk
  refine prnWalk_error.2 ⟨(carrierOrder (carriersOf rom m)).take j, _, (carrierOrder (carriersOf rom m)).drop (j + 1),
    by rw [← List.drop_eq_getElem_cons hj, List.take_append_drop], fun k' hk' => ?_, hr⟩
  obtain ⟨j', hj', rfl⟩ := List.mem_take_iff_getElem.1 hk'
  exact hpre j' _ (by omega) (List.getElem?_eq_getElem _)

/-- The stage succeeds exactly when every carrier passes the checks of its row. -/
theorem prnStage_ok_iff {rom : Rom} {m : Mode} (ha : rom.admitted = true) :
    (∃ out, prnStage rom m = .ok out) ↔
      ∀ k ∈ carrierOrder (carriersOf rom m), ∀ row,
        (rom.mode m).prnRows[(rowIndex (carriersOf rom m) k).toNat]? = some row →
        row.kMin.toInt ≤ k ∧ k ≤ row.kMax.toInt ∧ anchor k = row.kAnchor.toInt := by
  constructor
  · rintro ⟨out, hout⟩ k hk row hrow
    obtain ⟨j, hj⟩ := List.mem_iff_getElem?.1 hk
    obtain ⟨phi, -, hphi⟩ := prnStage_getElem? hout hj
    exact (prnCarrier_ok_iff _ hrow).1 ⟨phi, hphi⟩
  · intro hall
    refine prnWalk_of_forall fun k hk => ?_
    obtain ⟨row, hrow⟩ := prnRow_exists ha hk
    exact (prnCarrier_ok_iff _ hrow).2 (hall k hk row hrow)

/-- Settles O35: each code is its carrier's own, whose row exists and whose column is below 32. -/
theorem prnStageComputesEveryCarriersCode : Obligations.PrnStageComputesEveryCarriersCode := by
  intro rom m out ha hout
  obtain ⟨-, hK, -⟩ := Rom.admitted_bounds ha m
  have hlen : out.length = carriersOf rom m := by
    rw [prnStage_length hout]; omega
  refine ⟨hlen, fun j k hk => ?_⟩
  obtain ⟨row, hrow⟩ := prnRow_exists ha (List.mem_of_getElem? hk)
  obtain ⟨phi, hphi, hcode⟩ := prnStage_getElem? hout hk
  obtain ⟨hlo, hhi, hanchor, rfl⟩ := prnCarrier_ok _ hrow hcode
  obtain ⟨codes, hcodes, hentry⟩ := phaseEntry_getElem? rom.phaseH row.i (phaseColumn_lt k)
  exact ⟨row, codes, _, _, hrow, hlo, hhi, hanchor, hcodes, hentry, hphi, BitVec.toNat_add _ _⟩

/-- Settles O36: every earlier carrier passes, so the walk answers this carrier's own failure. -/
theorem prnStageStopsAtTheFirstFailingCarrier : Obligations.PrnStageStopsAtTheFirstFailingCarrier := by
  intro rom m j k row ha hk hrow hearlier
  have hpre : ∀ j' k', j' < j → (carrierOrder (carriersOf rom m))[j']? = some k' →
      ∃ phi, prnCarrier (rom.mode m).prnRows rom.phaseH (carriersOf rom m) k' = .ok phi := by
    intro j' k' hj' hk'
    obtain ⟨row', hrow'⟩ := prnRow_exists ha (List.mem_of_getElem? hk')
    exact (prnCarrier_ok_iff _ hrow').2 (hearlier j' k' row' hj' hk' hrow')
  exact ⟨fun hout => prnStage_error hk hpre (prnCarrier_of_outside _ hrow hout),
    fun hin hne => prnStage_error hk hpre (prnCarrier_of_anchor_ne _ hrow hin hne)⟩

/-! The structure of the ROMs that pass (41_prn_generator.md R146). -/

theorem rowAnchor_of_lt {K r : Nat} (h : r < K / 64) : rowAnchor K r = -((K : Int) / 2) + 32 * r := if_pos h

theorem rowAnchor_of_le {K r : Nat} (h : K / 64 ≤ r) : rowAnchor K r = 32 * ((r : Int) - (K : Int) / 64) + 1 :=
  if_neg h.not_gt

/-- Row r receives the 32 carriers from rowAnchor K r on: the rows below K/64 the negative ones, the others the positive. -/
theorem rowIndex_eq_iff {K r : Nat} (hK : K % 64 = 0) (hr : r < K / 32) (k : Int) :
    (k ∈ carrierOrder K ∧ rowIndex K k = r) ↔ rowAnchor K r ≤ k ∧ k ≤ rowAnchor K r + 31 := by
  rw [mem_carrierOrder]
  rcases lt_or_ge k 0 with hneg | hnonneg <;> rcases lt_or_ge r (K / 64) with hlt | hge
  · rw [rowIndex_of_neg K hneg, rowAnchor_of_lt hlt]; omega
  · rw [rowIndex_of_neg K hneg, rowAnchor_of_le hge]; omega
  · rw [rowIndex_of_nonneg K hnonneg, rowAnchor_of_lt hlt]; omega
  · rw [rowIndex_of_nonneg K hnonneg, rowAnchor_of_le hge]; omega

/-- The 32 carriers of a row have the row's anchor. -/
theorem anchor_eq_rowAnchor {K r : Nat} {k : Int} (hK : K % 64 = 0) (h1 : rowAnchor K r ≤ k)
    (h2 : k ≤ rowAnchor K r + 31) : anchor k = rowAnchor K r := by
  rcases lt_or_ge r (K / 64) with hlt | hge
  · rw [rowAnchor_of_lt hlt] at h1 h2 ⊢
    rw [anchor_of_neg (by omega)]
    omega
  · rw [rowAnchor_of_le hge] at h1 h2 ⊢
    rw [anchor_of_nonneg (by omega)]
    omega

/-- The row a carrier resolves to is counted from 0. -/
theorem rowIndex_nonneg {K : Nat} {k : Int} (hk : k ∈ carrierOrder K) : 0 ≤ rowIndex K k := by
  obtain ⟨h0, hlo, -⟩ := (mem_carrierOrder K k).1 hk
  rcases lt_or_ge k 0 with h | h
  · rw [rowIndex_of_neg K h]; omega
  · rw [rowIndex_of_nonneg K h]; omega

/-- Settles O37: the carriers of row r are the 32 from kps_r on, so their checks are the row's two bounds and its anchor. -/
theorem prnStagePassesExactlyTheStructuredRoms : Obligations.PrnStagePassesExactlyTheStructuredRoms := by
  intro rom m K ha hKdef
  obtain rfl : K = carriersOf rom m := hKdef
  obtain ⟨-, hK, -, -, -, -, hlen, -⟩ := Rom.admitted_bounds ha m
  refine ⟨fun r k hr => rowIndex_eq_iff hK hr k, (prnStage_ok_iff ha).trans ⟨fun hall r row hrow => ?_, ?_⟩⟩
  · have hr : r < carriersOf rom m / 32 := hlen ▸ (List.getElem?_eq_some_iff.1 hrow).1
    have own : ∀ k, rowAnchor (carriersOf rom m) r ≤ k → k ≤ rowAnchor (carriersOf rom m) r + 31 →
        row.kMin.toInt ≤ k ∧ k ≤ row.kMax.toInt ∧ anchor k = row.kAnchor.toInt := by
      intro k h1 h2
      obtain ⟨hk, hidx⟩ := (rowIndex_eq_iff hK hr k).2 ⟨h1, h2⟩
      exact hall k hk row (by rwa [hidx, Int.toNat_natCast])
    obtain ⟨hmin, -, hanchor⟩ := own _ le_rfl (by omega)
    obtain ⟨-, hmax, -⟩ := own _ (by omega) le_rfl
    exact ⟨hanchor.symm.trans (anchor_eq_rowAnchor hK le_rfl (by omega)), hmin, hmax⟩
  · intro hall k hk row hrow
    have hr : (rowIndex (carriersOf rom m) k).toNat < carriersOf rom m / 32 :=
      hlen ▸ (List.getElem?_eq_some_iff.1 hrow).1
    obtain ⟨h1, h2⟩ := (rowIndex_eq_iff hK hr k).1 ⟨hk, (Int.toNat_of_nonneg (rowIndex_nonneg hk)).symm⟩
    obtain ⟨hanchor, hmin, hmax⟩ := hall _ row hrow
    exact ⟨hmin.trans h1, h2.trans hmax, (anchor_eq_rowAnchor hK h1 h2).trans hanchor.symm⟩

end Sys2Proof.Machine

/-! The recurrence, its full period for a power of two, and the survivors (O39, O40, O42). -/

namespace Sys2Proof.Machine

/-! The recurrence (42_frequency_interleaver.md R171). -/

theorem lcrFrom_eq_iterate (N count A : Nat) : lcrFrom N count A = List.iterate (lcrNext N) A count := by
  induction count generalizing A with
  | zero => rfl
  | succ c ih => rw [lcrFrom, ih, List.iterate]

theorem lcrValues_eq_map_range (N : Nat) : lcrValues N = (List.range N).map fun i => (lcrNext N)^[i] 0 := by
  rw [lcrValues, lcrFrom_eq_iterate, List.range_map_iterate]

theorem length_lcrValues (N : Nat) : (lcrValues N).length = N := length_lcrFrom N N 0

theorem lcrValues_getElem? {N i : Nat} (h : i < N) : (lcrValues N)[i]? = some ((lcrNext N)^[i] 0) := by
  rw [lcrValues, lcrFrom_eq_iterate, List.getElem?_iterate _ _ _ _ h]

theorem lt_of_mem_lcrValues {N x : Nat} (h : x ∈ lcrValues N) : x < N := by
  have hN : 0 < N := length_lcrValues N ▸ List.length_pos_of_mem h
  exact lcrFrom_lt hN N 0 hN x h

/-- From N = 8 on the natural subtraction in the recurrence is exact. -/
theorem lcrNext_cast {N : Nat} (hN : 8 ≤ N) (A : Nat) :
    (lcrNext N A : Int) = (13 * (A : Int) + ((N : Int) / 4 - 1)) % N := by
  rw [lcrNext, Int.natCast_emod]
  congr 1
  omega

/-- Settles O39: the values are the iterates of one step of the recurrence from 0. -/
theorem recurrenceGeneratesTheValues : Obligations.RecurrenceGeneratesTheValues := by
  intro N hN
  refine ⟨length_lcrValues N, lcrValues_getElem? (by omega), fun x => lt_of_mem_lcrValues, fun i x hi hx => ?_⟩
  obtain rfl : (lcrNext N)^[i] 0 = x := Option.some.inj ((lcrValues_getElem? (by omega)).symm.trans hx)
  exact ⟨_, lcrValues_getElem? hi, by rw [Function.iterate_succ_apply', lcrNext_cast hN]⟩

/-! The period (42_frequency_interleaver.md R177): over a modulus 2^k the i-th value is a multiple, by an odd factor, of the
geometric sum 1 + 13 + ... + 13^(i-1), which vanishes mod 2^k only where i does. -/

/-- 1 + 13 + ... + 13^(n-1): the n-th value of the recurrence up to its factor and modulus. -/
def geomSum (n : Nat) : Nat := ∑ i ∈ Finset.range n, 13 ^ i

theorem geomSum_succ (n : Nat) : geomSum (n + 1) = 13 * geomSum n + 1 := geom_sum_succ

theorem geomSum_add (m n : Nat) : geomSum (m + n) = geomSum m + 13 ^ m * geomSum n := by
  simp only [geomSum, Finset.sum_range_add, pow_add, Finset.mul_sum]

theorem geomSum_mul (n : Nat) : geomSum n * 12 + 1 = 13 ^ n := geom_sum_mul_add 12 n

/-- The i-th value of the recurrence in closed form. -/
theorem iterate_lcrNext (N i : Nat) : (lcrNext N)^[i] 0 = (N / 4 - 1) * geomSum i % N := by
  induction i with
  | zero => rfl
  | succ i ih =>
    rw [Function.iterate_succ_apply', ih, geomSum_succ, lcrNext, Nat.add_mod, Nat.mul_mod_mod, ← Nat.add_mod]
    congr 1
    ring

/-- The geometric sum and the number of its terms are divisible by the same powers of two: lifting the exponent in
12 * geomSum n = 13^n - 1^n. -/
theorem two_pow_dvd_geomSum_iff (k n : Nat) : 2 ^ k ∣ geomSum n ↔ 2 ^ k ∣ n := by
  have hsum : (12 : Int) * geomSum n = 13 ^ n - 1 ^ n := by
    have := congrArg (Nat.cast (R := Int)) (geomSum_mul n)
    push_cast at this
    rw [one_pow]
    omega
  have hlift : emultiplicity (2 : Int) 12 + emultiplicity (2 : Int) (geomSum n) =
      emultiplicity (2 : Int) 12 + emultiplicity (2 : Int) n := by
    rw [← emultiplicity_mul Int.prime_two, hsum, Int.two_pow_sub_pow' n (by decide) (by decide)]
    rfl
  have hfin : FiniteMultiplicity (2 : Int) 12 := Int.finiteMultiplicity_iff.2 ⟨by decide, by decide⟩
  have hmult : emultiplicity (2 : Int) (geomSum n) = emultiplicity (2 : Int) n :=
    WithTop.add_left_cancel (finiteMultiplicity_iff_emultiplicity_ne_top.1 hfin) hlift
  have hdvd : (2 : Int) ^ k ∣ geomSum n ↔ (2 : Int) ^ k ∣ n := by
    rw [pow_dvd_iff_le_emultiplicity, hmult, ← pow_dvd_iff_le_emultiplicity]
  exact_mod_cast hdvd

/-- Over a power of two from 8 on the increment N/4 - 1 is odd. -/
theorem coprime_two_pow_increment {k : Nat} (hk : 3 ≤ k) : Nat.Coprime (2 ^ k) (2 ^ k / 4 - 1) := by
  obtain ⟨j, rfl⟩ := Nat.exists_eq_add_of_le' hk
  have hodd : Odd (2 ^ (j + 3) / 4 - 1) := Nat.odd_iff.2 (by have := Nat.two_pow_pos j; rw [pow_add]; omega)
  exact hodd.coprime_two_left.pow_left _

/-- Two indices below 2^k with the same value are the same index. -/
theorem index_eq_of_iterate_lcrNext_eq {k i j : Nat} (hk : 3 ≤ k) (hij : i ≤ j) (hj : j < 2 ^ k)
    (h : (lcrNext (2 ^ k))^[i] 0 = (lcrNext (2 ^ k))^[j] 0) : i = j := by
  obtain ⟨n, rfl⟩ := Nat.exists_eq_add_of_le hij
  rw [iterate_lcrNext, iterate_lcrNext] at h
  have hsum : geomSum i ≡ geomSum (i + n) [MOD 2 ^ k] :=
    Nat.ModEq.cancel_left_of_coprime (coprime_two_pow_increment hk) h
  have hdvd : 2 ^ k ∣ 13 ^ i * geomSum n := by
    simpa [geomSum_add] using (Nat.modEq_iff_dvd' (by rw [geomSum_add]; omega)).1 hsum
  have hn : 2 ^ k ∣ n :=
    (two_pow_dvd_geomSum_iff k n).1 (((by decide : Nat.Coprime 2 13).pow k i).dvd_of_dvd_mul_left hdvd)
  have := Nat.eq_zero_of_dvd_of_lt hn (by omega)
  omega

theorem nodup_lcrValues {k : Nat} (hk : 3 ≤ k) : (lcrValues (2 ^ k)).Nodup := by
  rw [lcrValues_eq_map_range]
  refine List.Nodup.map_on (fun i hi j hj h => ?_) List.nodup_range
  rw [List.mem_range] at hi hj
  rcases Nat.le_total i j with hij | hji
  · exact index_eq_of_iterate_lcrNext_eq hk hij hj h
  · exact (index_eq_of_iterate_lcrNext_eq hk hji hi h.symm).symm

/-- n distinct values below n are all of them. -/
theorem perm_range_of_nodup {l : List Nat} (hn : l.Nodup) (hlt : ∀ x ∈ l, x < l.length) :
    l.Perm (List.range l.length) :=
  (List.subperm_of_subset hn fun x hx => List.mem_range.2 (hlt x hx)).perm_of_length_le (by simp)

/-- Over a power of two from 8 on the recurrence takes every value below N once. -/
theorem lcrValues_perm_range {k : Nat} (hk : 3 ≤ k) : (lcrValues (2 ^ k)).Perm (List.range (2 ^ k)) := by
  have := perm_range_of_nodup (nodup_lcrValues hk) fun x hx => (length_lcrValues _).symm ▸ lt_of_mem_lcrValues hx
  rwa [length_lcrValues] at this

/-! The survivors (42_frequency_interleaver.md R172 to R175). -/

theorem recentre_injective (N : Nat) : Function.Injective (recentre N) := fun d d' h => by
  simp only [recentre] at h
  omega

theorem mem_survivors (N : Nat) (v : Int) :
    v ∈ survivors N ↔ ∃ d ∈ lcrValues N, survives N d = true ∧ recentre N d = v := by
  simp [survivors, and_assoc]

/-- Settles O40: the filter's bounds less N/2, with N/2 itself filtered out. -/
theorem survivorsLieInTheBand : Obligations.SurvivorsLieInTheBand := by
  intro N hN v hv
  obtain ⟨d, -, hs, rfl⟩ := (mem_survivors N v).1 hv
  obtain ⟨hlo, hhi, hne⟩ := of_decide_eq_true hs
  simp only [recentre, fdiv_eq]
  omega

/-- Distinct recurrence values leave distinct survivors. -/
theorem nodup_survivors {N : Nat} (h : (lcrValues N).Nodup) : (survivors N).Nodup :=
  (h.filter _).map (recentre_injective N)

/-- Of the values 0 to N - 1, those from N/8 to 7N/8 but N/2 survive. -/
theorem length_survivors_of_perm {N : Nat} (hN : N % 8 = 0) (h : (lcrValues N).Perm (List.range N)) :
    (survivors N).length = 3 * N / 4 := by
  have hset : ((List.range N).filter (survives N)).toFinset = (Finset.Icc (N / 8) (7 * N / 8)).erase (N / 2) := by
    ext d
    simp only [List.mem_toFinset, List.mem_filter, List.mem_range, survives, decide_eq_true_eq, Finset.mem_erase,
      Finset.mem_Icc]
    omega
  rw [survivors, List.length_map, (h.filter _).length_eq,
    ← List.toFinset_card_of_nodup (List.nodup_range.filter _), hset,
    Finset.card_erase_of_mem (Finset.mem_Icc.2 (by omega)), Nat.card_Icc]
  omega

/-! The count check and the duplicate check (42_frequency_interleaver.md R180, R181). -/

theorem countCheck_eq_none_iff (K : Nat) (S : List Int) : countCheck K S = none ↔ S.length = K := by
  simp [countCheck]

/-- A list has no repeat exactly when no element stands among those before it. -/
theorem nodup_iff_getD_notMem_take {l : List Int} :
    l.Nodup ↔ ∀ j, j < l.length → l.getD j 0 ∉ l.take j := by
  rw [List.Nodup, List.pairwise_iff_getElem]
  constructor
  · intro h j hj hmem
    obtain ⟨i, hi, he⟩ := List.mem_take_iff_getElem.1 hmem
    rw [List.getD_eq_getElem _ _ hj] at he
    exact h i j (by omega) hj (by omega) he
  · intro h i j hi hj hij he
    refine h j hj (List.mem_take_iff_getElem.2 ⟨i, by omega, ?_⟩)
    rw [List.getD_eq_getElem _ _ hj, he]

theorem duplicateCheck_eq_none_iff_firstBad (K : Nat) (S : List Int) :
    duplicateCheck K S = none ↔ firstBad K (repeatsAt S) = none := by
  unfold duplicateCheck
  split <;> simp [*]

/-- After the count check the duplicate check passes exactly on a sequence without repeats. -/
theorem duplicateCheck_eq_none_iff {K : Nat} {S : List Int} (hlen : S.length = K) :
    duplicateCheck K S = none ↔ S.Nodup := by
  simp only [duplicateCheck_eq_none_iff_firstBad, firstBad_eq_none, repeatsAt, decide_eq_false_iff_not,
    nodup_iff_getD_notMem_take, hlen]

/-- Settles O42: the four lengths are powers of two. -/
theorem recurrenceHasFullPeriod : Obligations.RecurrenceHasFullPeriod := by
  intro N hN
  obtain ⟨k, hk, rfl⟩ : ∃ k, 3 ≤ k ∧ N = 2 ^ k := by
    rcases hN with rfl | rfl | rfl | rfl
    exacts [⟨8, by decide⟩, ⟨9, by decide⟩, ⟨10, by decide⟩, ⟨11, by decide⟩]
  have hmod : 2 ^ k % 8 = 0 := Nat.mod_eq_zero_of_dvd (pow_dvd_pow 2 hk)
  have hperm := lcrValues_perm_range hk
  have hlen := length_survivors_of_perm hmod hperm
  have hnodup := nodup_survivors (nodup_lcrValues hk)
  refine ⟨length_lcrValues _, nodup_lcrValues hk, fun d hd => hperm.mem_iff.2 (List.mem_range.2 hd), hlen, hnodup,
    fun K => ?_, (duplicateCheck_eq_none_iff hlen).2 hnodup⟩
  rw [countCheck_eq_none_iff, hlen]
  omega

end Sys2Proof.Machine

/-! The checks of the frequency-interleaving stage, the array form, its inverse, the two index RAMs, and the golden prefixes
(O41, O43 to O47). -/

namespace Sys2Proof.Machine

/-! The order of the checks (42_frequency_interleaver.md R190). -/

theorem fiChecks_of_length_ne {K : Nat} {golden S : List Int} (h : S.length ≠ K) :
    fiChecks K golden S = .error ⟨.fiCount, BitVec.ofNat 32 S.length⟩ := by
  simp only [fiChecks, countCheck, if_pos h]

theorem fiChecks_of_duplicateCheck {K : Nat} {golden S : List Int} {r : Raise} (hlen : S.length = K)
    (h : duplicateCheck K S = some r) : fiChecks K golden S = .error r := by
  simp only [fiChecks, (countCheck_eq_none_iff K S).2 hlen, h]

theorem fiChecks_of_goldenCheck {K : Nat} {golden S : List Int} {r : Raise} (hlen : S.length = K) (hnodup : S.Nodup)
    (h : goldenCheck golden S = some r) : fiChecks K golden S = .error r := by
  simp only [fiChecks, (countCheck_eq_none_iff K S).2 hlen, (duplicateCheck_eq_none_iff hlen).2 hnodup, h]

/-- The duplicate check reports the first element that stands among those before it. -/
theorem duplicateCheck_of_first {K j : Nat} {S : List Int} {v : Int} (hlen : S.length = K) (hv : S[j]? = some v)
    (hmem : v ∈ S.take j) (hnodup : (S.take j).Nodup) :
    duplicateCheck K S = some ⟨.fiDuplicate, BitVec.ofInt 32 v⟩ := by
  have hj : j < K := hlen ▸ (List.getElem?_eq_some_iff.1 hv).1
  have hget : S.getD j 0 = v := by rw [List.getD_eq_getElem?_getD, hv, Option.getD_some]
  have hfirst : firstBad K (repeatsAt S) = some j := by
    refine (firstBad_eq_some _ _ _).2 ⟨hj, decide_eq_true (hget.symm ▸ hmem), fun i hi => decide_eq_false ?_⟩
    have hprefix := nodup_iff_getD_notMem_take.1 hnodup i (by rw [List.length_take]; omega)
    rwa [List.getD_eq_getElem?_getD, List.getElem?_take_of_lt hi, ← List.getD_eq_getElem?_getD, List.take_take,
      min_eq_left hi.le] at hprefix
  simp only [duplicateCheck, hfirst, hget, trunc]

/-- The golden check reports the first index where the sequence departs from GOLDEN. -/
theorem goldenCheck_of_first {golden S : List Int} {j : Nat} (hj : j < golden.length) (hne : S[j]? ≠ golden[j]?)
    (hfirst : ∀ i, i < j → S[i]? = golden[i]?) : goldenCheck golden S = some ⟨.fiGolden, BitVec.ofNat 32 j⟩ := by
  have : firstBad golden.length (fun j => decide (S[j]? ≠ golden[j]?)) = some j :=
    (firstBad_eq_some _ _ _).2 ⟨hj, decide_eq_true hne, fun i hi => decide_eq_false (not_not_intro (hfirst i hi))⟩
  simp only [goldenCheck, this]

/-- Settles O43: each check with its first failing index, after the checks before it have passed. -/
theorem fiStageReportsTheFirstFailingCheck : Obligations.FiStageReportsTheFirstFailingCheck := by
  rintro rom m S K - rfl rfl
  exact ⟨fiChecks_of_length_ne,
    fun hlen j v hv hmem hnodup => fiChecks_of_duplicateCheck hlen (duplicateCheck_of_first hlen hv hmem hnodup),
    fun hlen hnodup j hj hne hfirst => fiChecks_of_goldenCheck hlen hnodup (goldenCheck_of_first hj hne hfirst)⟩

/-! The array form (42_frequency_interleaver.md R186, R187). -/

/-- The array form of a nonzero value of [-K/2, K/2] is its position among the carriers. -/
theorem carrierOrder_arrayIndex {K : Nat} {v : Int} (h0 : v ≠ 0) (h1 : -((K / 2 : Nat) : Int) ≤ v)
    (h2 : v ≤ ((K / 2 : Nat) : Int)) :
    0 ≤ arrayIndex K v ∧ (carrierOrder K)[(arrayIndex K v).toNat]? = some v := by
  rw [carrierOrder_getElem?, arrayIndex, fdiv_eq]
  rcases lt_or_gt_of_ne h0 with hneg | hpos
  · rw [if_neg hneg.not_gt, if_pos (by omega)]
    exact ⟨by omega, congrArg some (by omega)⟩
  · rw [if_pos hpos, if_neg (by omega), if_pos (by omega)]
    exact ⟨by omega, congrArg some (by omega)⟩

/-- Settles O46: the array form read back in the carriers' order. -/
theorem arrayFormIsTheCarrierPosition : Obligations.ArrayFormIsTheCarrierPosition := fun K v _ h0 h1 h2 =>
  carrierOrder_arrayIndex h0 (by omega) (by omega)

theorem arrayCheck_eq_none_iff_firstBad (K : Nat) (ilv : List Int) :
    arrayCheck K ilv = none ↔ firstBad K (arrayBad K ilv) = none := by
  unfold arrayCheck
  split <;> simp [*]

/-- The array check passes exactly on distinct indices of [0, K). -/
theorem arrayCheck_eq_none_iff {K : Nat} {ilv : List Int} (hlen : ilv.length = K) :
    arrayCheck K ilv = none ↔ ilv.Nodup ∧ ∀ v ∈ ilv, 0 ≤ v ∧ v < K := by
  subst hlen
  have hbad : ∀ u, arrayBad ilv.length ilv u = false ↔
      ilv.getD u 0 ∉ ilv.take u ∧ 0 ≤ ilv.getD u 0 ∧ ilv.getD u 0 < ilv.length := fun u => by
    simp only [arrayBad, decide_eq_false_iff_not, not_or, not_lt, Int.le_sub_one_iff]
    tauto
  have hmem : (∀ v ∈ ilv, 0 ≤ v ∧ v < ilv.length) ↔
      ∀ u, u < ilv.length → 0 ≤ ilv.getD u 0 ∧ ilv.getD u 0 < ilv.length := by
    rw [List.forall_mem_iff_forall_getElem]
    exact forall₂_congr fun u hu => by rw [List.getD_eq_getElem _ _ hu]
  rw [arrayCheck_eq_none_iff_firstBad, firstBad_eq_none, nodup_iff_getD_notMem_take, hmem, ← forall₂_and]
  exact forall₂_congr fun u _ => hbad u

/-- Distinct carriers have distinct array forms, each a position below K. -/
theorem arrayCheck_of_carriers {K : Nat} {S : List Int} (hlen : S.length = K) (hnodup : S.Nodup)
    (hS : ∀ v ∈ S, v ∈ carrierOrder K) : arrayCheck K (arrayForm K S) = none := by
  have hpos : ∀ v ∈ S, 0 ≤ arrayIndex K v ∧ (carrierOrder K)[(arrayIndex K v).toNat]? = some v := fun v hv =>
    have ⟨h0, h1, h2⟩ := (mem_carrierOrder K v).1 (hS v hv)
    carrierOrder_arrayIndex h0 h1 h2
  refine (arrayCheck_eq_none_iff (by rw [arrayForm, List.length_map, hlen])).2
    ⟨hnodup.map_on fun a ha b hb he => ?_, fun x hx => ?_⟩
  · exact Option.some.inj ((hpos a ha).2.symm.trans (he ▸ (hpos b hb).2))
  · obtain ⟨v, hv, rfl⟩ := List.mem_map.1 hx
    obtain ⟨hnonneg, hget⟩ := hpos v hv
    obtain ⟨hlt, -⟩ := List.getElem?_eq_some_iff.1 hget
    rw [length_carrierOrder] at hlt
    omega

/-- Settles O44: the survivors are K distinct carriers. -/
theorem arrayCheckPassesAtThreeQuarters : Obligations.ArrayCheckPassesAtThreeQuarters := by
  intro N K hN hK hcount hdup
  have hlen := (countCheck_eq_none_iff K _).1 hcount
  refine arrayCheck_of_carriers hlen ((duplicateCheck_eq_none_iff hlen).1 hdup) fun v hv => ?_
  obtain ⟨hlo, hhi, h0⟩ := survivorsLieInTheBand N hN v hv
  exact (mem_carrierOrder K v).2 ⟨h0, by omega, by omega⟩

/-! The inverse (42_frequency_interleaver.md R188, R189, R191). -/

/-- ILV holds K distinct indices below K. -/
structure IsIndexPermutation (K : Nat) (ilv : List Nat) : Prop where
  length_eq : ilv.length = K
  nodup : ilv.Nodup
  lt : ∀ v ∈ ilv, v < K

/-- A sequence that passes the array check gives a permutation of [0, K). -/
theorem isIndexPermutation_of_arrayCheck {K : Nat} {S : List Int} (hlen : S.length = K)
    (h : arrayCheck K (arrayForm K S) = none) : IsIndexPermutation K ((arrayForm K S).map Int.toNat) := by
  have hlen' : (arrayForm K S).length = K := by rw [arrayForm, List.length_map, hlen]
  obtain ⟨hnodup, hbound⟩ := (arrayCheck_eq_none_iff hlen').1 h
  refine ⟨by rw [List.length_map, hlen'], hnodup.map_on fun a ha b hb he => ?_, fun v hv => ?_⟩
  · have := hbound a ha
    have := hbound b hb
    omega
  · obtain ⟨a, ha, rfl⟩ := List.mem_map.1 hv
    have := hbound a ha
    omega

/-- DIL[ILV[u]] = u. -/
theorem IsIndexPermutation.inverseOf_left {K u v : Nat} {ilv : List Nat} (h : IsIndexPermutation K ilv)
    (hu : ilv[u]? = some v) : (inverseOf K ilv)[v]? = some u := by
  have := (writeInverse_getElem? 0 ilv (List.replicate K 0) h.nodup (by simpa using h.lt)).1 u v hu
  rwa [Nat.zero_add] at this

/-- ILV[DIL[v]] = v, as every index below K is one of ILV's. -/
theorem IsIndexPermutation.inverseOf_right {K v : Nat} {ilv : List Nat} (h : IsIndexPermutation K ilv) (hv : v < K) :
    ∃ u, u < K ∧ (inverseOf K ilv)[v]? = some u ∧ ilv[u]? = some v := by
  have hperm := perm_range_of_nodup h.nodup (h.length_eq.symm ▸ h.lt)
  obtain ⟨u, hu⟩ := List.mem_iff_getElem?.1 (hperm.mem_iff.2 (List.mem_range.2 (h.length_eq.symm ▸ hv)))
  exact ⟨u, h.length_eq ▸ (List.getElem?_eq_some_iff.1 hu).1, h.inverseOf_left hu, hu⟩

theorem IsIndexPermutation.exists_getElem? {K j : Nat} {ilv : List Nat} (h : IsIndexPermutation K ilv) (hj : j < K) :
    ∃ v, v < K ∧ ilv[j]? = some v :=
  ⟨_, h.lt _ (List.getElem_mem (h.length_eq.symm ▸ hj)), List.getElem?_eq_getElem _⟩

theorem IsIndexPermutation.roundtripCheck_eq_none {K : Nat} {ilv : List Nat} (h : IsIndexPermutation K ilv) :
    roundtripCheck K ilv (inverseOf K ilv) = none := by
  have hscan : firstBad K (roundtripBad ilv (inverseOf K ilv)) = none := by
    refine (firstBad_eq_none _ _).2 fun j hj => ?_
    obtain ⟨v, -, hv⟩ := h.exists_getElem? hj
    obtain ⟨u, -, hdil, hilv⟩ := h.inverseOf_right hj
    simp [roundtripBad, List.getD_eq_getElem?_getD, hv, h.inverseOf_left hv, hdil, hilv]
  simp only [roundtripCheck, hscan]

/-- Settles O45: a sequence that passes is a permutation of [0, K), so the writes of DIL invert it. -/
theorem roundTripCheckCannotFail : Obligations.RoundTripCheckCannotFail := fun _ _ hlen h =>
  have hperm := isIndexPermutation_of_arrayCheck hlen h
  ⟨fun _ _ => hperm.inverseOf_left, hperm.roundtripCheck_eq_none⟩

/-- A successful derivation gives a permutation and its inverse. -/
theorem derivation_isIndexPermutation {rom : Rom} {m : Mode} {p : Snapshot} (h : derivation rom m = .ok p) :
    IsIndexPermutation (carriersOf rom m) p.ilv ∧ p.dil = inverseOf (carriersOf rom m) p.ilv := by
  obtain ⟨-, hfi⟩ := derivation_ok h
  obtain ⟨hlen, -, -, harray, -, he⟩ := fiChecks_ok hfi
  simp only [FiResult.mk.injEq] at he
  obtain ⟨-, hilv, hdil⟩ := he
  rw [← hilv] at hdil
  exact ⟨hilv ▸ isIndexPermutation_of_arrayCheck hlen ((arrayCheck_eq_none_iff_firstBad _ _).2 harray), hdil⟩

/-- While VALID = 1 the entries below K of ILV_RAM and DIL_RAM are those of a permutation of [0, K) and its inverse. -/
theorem State.Inv.indexRams {s : State} {m : Mode} (h : s.Inv) (hv : s.status.valid = true)
    (hm : modeOfField s.status.activeMode = some m) :
    ∃ ilv, IsIndexPermutation (carriersOf s.rom m) ilv ∧ ∀ j, j < carriersOf s.rom m →
      ramRead s.mem.ilv j = ilv[j]?.map (BitVec.ofNat 11) ∧
      ramRead s.mem.dil j = (inverseOf (carriersOf s.rom m) ilv)[j]?.map (BitVec.ofNat 11) := by
  obtain ⟨ha, p, hp, hold⟩ := h.snapshot hv hm
  obtain ⟨hlen, -⟩ := derivation_lengths ha hp
  obtain ⟨hperm, hdil⟩ := derivation_isIndexPermutation hp
  refine ⟨p.ilv, hperm, fun j hj => ?_⟩
  obtain ⟨-, -, hilvj, hdilj⟩ := hold j (hlen ▸ hj)
  rw [List.getElem?_map] at hilvj hdilj
  exact ⟨hilvj, hdil ▸ hdilj⟩

/-- Settles O47: the two RAMs hold a permutation and its inverse, whose entries fit 11 bits. -/
theorem interleavingWindowsAreInversePermutations : Obligations.InterleavingWindowsAreInversePermutations := by
  intro s m h hv hm j hj
  change j < carriersOf s.rom m at hj
  obtain ⟨ha, -⟩ := h.snapshot hv hm
  obtain ⟨-, -, hK, -⟩ := Rom.admitted_bounds ha m
  obtain ⟨ilv, hperm, hram⟩ := h.indexRams hv hm
  have hfit : ∀ u, u < carriersOf s.rom m → (BitVec.ofNat 11 u).toNat = u := fun u hu => by
    rw [BitVec.toNat_ofNat, Nat.mod_eq_of_lt (by omega)]
  obtain ⟨a, haK, hilvj⟩ := hperm.exists_getElem? hj
  obtain ⟨b, hbK, hdilj, hilvb⟩ := hperm.inverseOf_right hj
  refine ⟨⟨BitVec.ofNat 11 a, ?_, ?_, ?_⟩, ⟨BitVec.ofNat 11 b, ?_, ?_, ?_⟩⟩
  · rwa [hfit a haK]
  · rw [(hram j hj).1, hilvj, Option.map_some]
  · rw [hfit a haK, (hram a haK).2, hperm.inverseOf_left hilvj, Option.map_some]
  · rwa [hfit b hbK]
  · rw [(hram j hj).2, hdilj, Option.map_some]
  · rw [hfit b hbK, (hram b hbK).1, hilvb, Option.map_some]

/-! The golden prefixes (42_frequency_interleaver.md R182, R185). -/

theorem goldenCheck_nil (S : List Int) : goldenCheck [] S = none := rfl

/-- Settles O41: the prefixes by evaluation, and the built GOLDEN by its definition. -/
theorem goldenPrefixesAreReproduced : Obligations.GoldenPrefixesAreReproduced := by
  have hI : (survivors 2048).take 10 = [-513, -14, 329, 692, -733, 13, 680, 273, -36, 43] := by decide
  have hII : (survivors 512).take 10 = [-129, -14, -55, -76, 163, 141, -88, 7, -111, -85] := by decide
  have hIII : (survivors 256).take 10 = [-65, -14, 52, -29, -58, 77, 40, 71, -38, 81] := by decide
  have hIV : (survivors 1024).take 10 = [-257, -14, 73, 180, 198, -243, 168, 218, 17, 299] := by decide
  exact ⟨by decide, hI, hII, hIII, hIV, hI.symm, hII.symm, hIII.symm, hIV.symm, goldenCheck_nil⟩

end Sys2Proof.Machine

/-! What the port answers, and the fault an illegal word takes (O13, O31). -/

namespace Sys2Proof.Machine

theorem aligned_eq_false_iff (a : Addr) : aligned a = false ↔ a.toNat % 4 ≠ 0 := by
  rw [← Bool.not_eq_true, aligned_iff]

/-! The effect of a CMD write leaves its answer standing (20_memory.md R68). -/

theorem exec_resp {i : Instr} {s t : State} (h : exec i s = .next t) : t.resp = s.resp := by
  rcases exec_cases h with ⟨-, rfl⟩ | ⟨-, rfl⟩ | ⟨-, rfl⟩ | ⟨f, -, ⟨-, rfl⟩ | ⟨-, -, rfl⟩ | ⟨-, -, rfl⟩⟩ <;> rfl

theorem cmdWrite_resp {w : Word} {s t : State} (h : cmdWrite w s = .next t) : t.resp = s.resp := by
  rcases cmdWrite_cases h with ⟨-, rfl⟩ | ⟨-, i, -, he⟩ | ⟨-, why, -, rfl⟩
  · rfl
  · exact exec_resp he
  · rfl

/-- A write answers by its alignment alone, whatever it presents. -/
theorem busWrite_resp {a : Addr} {v : Word} {s t : State} (h : busWrite a v s = .next t) :
    t.resp = some (.write (if a.toNat % 4 = 0 then .okay else .busError)) := by
  rcases busWrite_cases h with ⟨ha, -, hw⟩ | ⟨ha, -, rfl⟩ | ⟨ha, rfl⟩
  · rw [cmdWrite_resp hw, if_pos ((aligned_iff a).1 ha), respond_resp]
  · rw [if_pos ((aligned_iff a).1 ha), respond_resp]
  · rw [if_neg ((aligned_eq_false_iff a).1 ha), respond_resp]

/-- Settles O13: the two reads by alignment, the word of every address under the invariant, the answer of every write. -/
theorem busErrorOnlyForMisalignment : Obligations.BusErrorOnlyForMisalignment := by
  refine ⟨fun s a w rest ha hag hw => ?_, fun s a h => h.readWord_ok a, fun s a rest ha hag => ?_,
    fun s a v rest hag => ?_⟩
  · exact (step_of_cons hag).trans (busRead_of_ok ((aligned_iff a).2 ha) ((readWord_setAgenda s rest a).trans hw))
  · exact (step_of_cons hag).trans (busRead_of_misaligned ((aligned_eq_false_iff a).2 ha))
  · obtain ⟨t, ht⟩ := busWrite_next a v (setAgenda rest s)
    exact ⟨t, (step_of_cons hag).trans ht, busWrite_resp ht⟩

/-- Settles O31: an accepted CMD write of a word that decodes to no command raises ILLEGAL_CMD with the word. -/
theorem illegalCommandTakesTheFault : Obligations.IllegalCommandTakesTheFault := fun _ _ _ _ hw hb hag =>
  (step_of_cmdWrite hag).trans (cmdWrite_of_illegal hb hw)

end Sys2Proof.Machine

/-! Reset and hazards: ROMs that fail the consistency check, the STATUS read after a CMD write, the engine's latency, polling
(O14, O56, O57, O59). -/

namespace Sys2Proof.Machine

/-! ROMs that fail the consistency check (70_reset_and_hazards.md R243). -/

/-- Over such ROMs no self-test passes, and a snapshot needs one that did. -/
theorem State.Inv.no_snapshot_of_constCheck {s : State} (h : s.Inv) (hc : constCheck s.rom ≠ none) :
    s.status.valid = false ∧ s.status.romOk = false := by
  have hok : s.status.romOk ≠ true := fun hok => by
    obtain ⟨-, hpass⟩ := h.romOkIsTrue hok
    exact hc hpass
  have hv : s.status.valid ≠ true := fun hv => by
    obtain ⟨hrom, -⟩ := h.validIsComplete hv
    exact hok hrom
  exact ⟨Bool.eq_false_of_not_eq_true hv, Bool.eq_false_of_not_eq_true hok⟩

/-- Settles O59: every run keeps the invariant and the ROMs, so ROM_OK stays 0 and the ROM gate stays shut. -/
theorem brokenConstantsNeverGiveASnapshot : Obligations.BrokenConstantsNeverGiveASnapshot := by
  intro n s t h hc hrun
  have ht : t.Inv := runMoves_induction (P := State.Inv) everyStepKeepsTheInvariant h hrun
  obtain ⟨hv, hok⟩ := ht.no_snapshot_of_constCheck (romsNeverChange n s t hrun ▸ hc)
  refine ⟨hv, hok, fun f hf => ?_⟩
  obtain ⟨m, hm⟩ := Option.isSome_iff_exists.1 ((modeOfField_isSome_iff f).2 hf)
  exact ⟨_, exec_derive_of_romNotOk hm hok, rfl, rfl, rfl, rfl⟩

/-! A STATUS read after a CMD write (70_reset_and_hazards.md R249). -/

theorem exec_agenda {i : Instr} {s t : State} (h : exec i s = .next t) : t.agenda = s.agenda := by
  rcases exec_cases h with ⟨-, rfl⟩ | ⟨-, rfl⟩ | ⟨-, rfl⟩ | ⟨f, -, ⟨-, rfl⟩ | ⟨-, -, rfl⟩ | ⟨-, -, rfl⟩⟩ <;> rfl

theorem cmdWrite_agenda {w : Word} {s t : State} (h : cmdWrite w s = .next t) : t.agenda = s.agenda := by
  rcases cmdWrite_cases h with ⟨-, rfl⟩ | ⟨-, i, -, he⟩ | ⟨-, why, -, rfl⟩
  · rfl
  · exact exec_agenda he
  · rfl

theorem step_of_cmdWrite_next {s : State} {w : Word} {rest : List Event}
    (hag : s.agenda = .host (.write 0x0000#16 w) :: rest) : ∃ t, step s = .next t ∧ t.agenda = rest := by
  obtain ⟨t, ht⟩ := cmdWrite_next w (respond (.write .okay) (setAgenda rest s))
  exact ⟨t, (step_of_cmdWrite hag).trans ht, cmdWrite_agenda ht⟩

theorem step_of_statusRead {s : State} {rest : List Event} (hag : s.agenda = .host (.read 0x0004#16) :: rest) :
    step s = .next (respond (.read .okay (statusWord s.status)) (setAgenda rest s)) :=
  (step_of_cons hag).trans (busRead_of_ok (a := 0x0004#16) rfl rfl)

/-- Settles O14: the write leaves the read as the next move, which answers the STATUS it finds. -/
theorem statusReadShowsTheAcceptance : Obligations.StatusReadShowsTheAcceptance := by
  intro s w rest hag
  obtain ⟨t, ht, hrest⟩ := step_of_cmdWrite_next hag
  exact ⟨t, _, ht, step_of_statusRead hrest, rfl⟩

/-! The engine's latency (70_reset_and_hazards.md R252). -/

/-- With no other move to come, k turns short of the completion take k off ENG.LEFT and change nothing else. -/
theorem runMoves_of_le_left {s : State} {k : Nat} (hag : s.agenda = []) (ho : s.eng.op ≠ .idle) (hk : k ≤ s.eng.left) :
    runMoves k s = .next (setEngLeft (s.eng.left - k) s) := by
  induction k generalizing s with
  | zero => rfl
  | succ k ih =>
    obtain ⟨n, hl⟩ : ∃ n, s.eng.left = n + 1 := Nat.exists_eq_add_one.2 (by omega)
    have hstep : step s = .next (setEngLeft n s) := (step_of_nil hag).trans (engineStep_running ho hl)
    rw [runMoves_succ hstep, hl, Nat.add_sub_add_right]
    exact ih (s := setEngLeft n s) hag ho (show k ≤ n by omega)

theorem runMoves_one (s : State) : runMoves 1 s = step s := by
  cases hs : step s with
  | next t => rw [runMoves_succ hs, runMoves_zero]
  | fault f => simp [runMoves, Host.Core.run, Sys2Proof.core, hs]
  | refused r => simp [runMoves, Host.Core.run, Sys2Proof.core, hs]

/-- Settles O56: ENG.LEFT counts down to 0, and the step after that is the one from ENG.LEFT = 0. -/
theorem engineCompletesAfterItsLatency : Obligations.EngineCompletesAfterItsLatency := fun s hag ho =>
  ⟨fun _ hk => runMoves_of_le_left hag ho hk, (runMoves_countdown hag ho rfl 1).trans (runMoves_one (setEngLeft 0 s))⟩

/-! Polling (70_reset_and_hazards.md R254). -/

/-- The engine's turns among the moves reach its completion, if it is not idle already. -/
def CompletesWithin (moves : List Event) (s : State) : Prop := s.eng.op = .idle ∨ s.eng.left < engineTurns moves

theorem State.Inv.not_busy_of_completesWithin_nil {s : State} (h : s.Inv) (hc : CompletesWithin [] s) :
    s.status.busy = false := by
  have ho : s.eng.op = .idle := hc.resolve_right (Nat.not_lt_zero _)
  exact Bool.eq_false_of_not_eq_true fun hb => h.busyIffRunning.1 hb ho

theorem completeSelftest_op_agenda (s : State) :
    (completeSelftest s).eng.op = .idle ∧ (completeSelftest s).agenda = s.agenda := by
  rcases completeSelftest_cases s with ⟨r, -, e⟩ | ⟨-, e⟩ <;> rw [e] <;> exact ⟨rfl, rfl⟩

theorem completeDerive_op_agenda {s t : State} (h : completeDerive s = .next t) :
    t.eng.op = .idle ∧ t.agenda = s.agenda := by
  obtain ⟨m, -, ⟨r, -, rfl⟩ | ⟨p, -, rfl⟩⟩ := completeDerive_cases h <;> exact ⟨rfl, rfl⟩

/-- An engine turn completes, or takes one off ENG.LEFT. -/
theorem engineStep_completesWithin {moves : List Event} {s t : State} (hc : CompletesWithin (.engine :: moves) s)
    (h : engineStep s = .next t) : t.agenda = s.agenda ∧ CompletesWithin moves t := by
  rw [CompletesWithin, engineTurns_engine_cons] at hc
  rcases engineStep_cases h with ⟨ho, rfl⟩ | ⟨ho, n, hl, rfl⟩ | ⟨-, -, -, rfl⟩ | ⟨-, -, -, hd⟩
  · exact ⟨rfl, .inl ho⟩
  · have hlt : s.eng.left < engineTurns moves + 1 := hc.resolve_left ho
    exact ⟨rfl, .inr (show n < engineTurns moves by omega)⟩
  · obtain ⟨ho, hag⟩ := completeSelftest_op_agenda s
    exact ⟨hag, .inl ho⟩
  · obtain ⟨ho, hag⟩ := completeDerive_op_agenda hd
    exact ⟨hag, .inl ho⟩

/-- A polling host's moves, one at a time: an engine turn, or a read, which leaves the engine as it was. -/
theorem step_completesWithin {e : Event} {moves : List Event} {s t : State} (hag : s.agenda = e :: moves)
    (he : e = .engine ∨ e = .host (.read 0x0004#16)) (hc : CompletesWithin (e :: moves) s) (h : step s = .next t) :
    t.agenda = moves ∧ CompletesWithin moves t := by
  rcases he with rfl | rfl
  · rw [step_of_cons hag] at h
    exact engineStep_completesWithin (s := setAgenda moves s) hc h
  · rw [step_of_statusRead hag] at h
    cases h
    rw [CompletesWithin, engineTurns_host_cons] at hc
    exact ⟨rfl, hc⟩

theorem State.Inv.step_next_of_admitted {s : State} (h : s.Inv) (ha : s.rom.admitted = true) :
    ∃ t, Machine.step s = .next t := by
  rcases invariantStatesNeverFault s h with ht | ⟨-, hna, -⟩
  · exact ht
  · simp [ha] at hna

/-- A polling host's moves all answer, and leave the engine idle once its turns reach the completion. -/
theorem State.Inv.runMoves_polling {moves : List Event} {s : State} (h : s.Inv) (ha : s.rom.admitted = true)
    (hag : s.agenda = moves) (hpoll : ∀ e ∈ moves, e = .engine ∨ e = .host (.read 0x0004#16))
    (hc : CompletesWithin moves s) :
    ∃ t, runMoves moves.length s = .next t ∧ t.agenda = [] ∧ t.status.busy = false := by
  induction moves generalizing s with
  | nil => exact ⟨s, rfl, hag, h.not_busy_of_completesWithin_nil hc⟩
  | cons e moves ih =>
    obtain ⟨u, hu⟩ := h.step_next_of_admitted ha
    obtain ⟨hrest, hc'⟩ := step_completesWithin hag (hpoll e List.mem_cons_self) hc hu
    rw [List.length_cons, runMoves_succ hu]
    exact ih (h.step hu) (step_rom hu ▸ ha) hrest (fun e' he' => hpoll e' (List.mem_cons_of_mem e he')) hc'

/-- Settles O57: more than LEFT engine turns reach the completion, whatever reads stand between them. -/
theorem pollingTerminates : Obligations.PollingTerminates := fun _ h ha hpoll hlt =>
  h.runMoves_polling ha rfl hpoll (.inr hlt)

end Sys2Proof.Machine
